-- ==== Sys2Proof/Word.lean ====
section
/-! DEFINITION. The two word types of the core (spec/00_scope.md R8): an 8-bit byte and a 16-bit word, which is also an address. -/

namespace Sys2Proof

/-- A register, an opcode or a memory cell: 8 bits (R8). -/
abbrev Byte := BitVec 8

/-- A register pair, PC, SP or an address: 16 bits (R8). -/
abbrev Word := BitVec 16

end Sys2Proof
end

