-- ==== Sys2Proof/Machine/Bits.lean ====
section
/-! DEFINITION. Bit-field, concatenation and extension helpers (spec/00_scope.md R10, R11). -/

namespace Sys2Proof.Machine

/-- The concatenation `(hi, lo)` of R10: `hi * 256 + lo`. -/
def word (hi lo : Byte) : Word := hi ++ lo

/-- `v[15:8]`. -/
def hiByte (v : Word) : Byte := v.extractLsb' 8 8

/-- `v[7:0]`. -/
def loByte (v : Word) : Byte := v.extractLsb' 0 8

/-- `sext_16` of R11: bit 7 is copied into bits 15..8. -/
def sext16 (v : Byte) : Word := v.signExtend 16

/-- `hi_addr` of R89: `0xFF00 | v8`. -/
def hiAddr (v : Byte) : Word := 0xFF00#16 ||| v.setWidth 16

/-- One bit as a byte 0 or 1. -/
def bitByte (b : Bool) : Byte := if b then 1#8 else 0#8

end Sys2Proof.Machine
end

