-- ==== Sys2Proof/Config.lean ====
section
/-! DEFINITION. The parameters of spec/00_scope.md R9, each a closed choice. A machine is built with a value of each and no step
changes it; State holds the values as plain data (DESIGN CHOICE, log entry 4), so that every claim can be made for all of them. The
spec leaves no value undefined; the one thing left free is what a supplied bus does. -/

namespace Sys2Proof

/-- `P_HALT` (R9, R196; decision D5): what opcode 0x76 does. -/
inductive HaltParam where
  | haltStops   -- HALT_STOPS, the default
  | haltFaults  -- HALT_FAULTS
  deriving DecidableEq, Repr

/-- `P_STOP` (R9, R197; decision D6): what opcode 0x10 does. -/
inductive StopParam where
  | stopStops   -- STOP_STOPS, the default
  | stopFaults  -- STOP_FAULTS
  deriving DecidableEq, Repr

/-- `Bus` (R9, R40; decision D3): the two buses the spec names, and any other bus, supplied by number (log entry 2). -/
inductive BusKind where
  | refMap                       -- the reference map of R43, the default
  | flatRam                      -- the test bus of R40: 65536 writable bytes
  | supplied (number : Nat)      -- another bus, a device on it or not (R7, R239)
  deriving DecidableEq, Repr

/-- The state of a bus, `BusState` of R40, as plain data: the bytes stored, by address, of the two buses the spec names; whatever a
supplied bus keeps there (a list of numbers and bytes can hold the state of any device). -/
abbrev BusState := List (Nat × Byte)

/-- `read : BusState -> Addr16 -> Byte` of R9 and R40 for each supplied bus. It has no body: every claim holds whatever bus is supplied. -/
opaque Config.busRead : Nat → BusState → Word → Byte

/-- The state a read leaves each supplied bus in (R50, D3: its reads may have side effects), with no body. A bus of R40, which no read
changes, is the case that it is the state before (log entry 14). -/
opaque Config.busAfterRead : Nat → BusState → Word → BusState

/-- `write : BusState -> Addr16 -> Byte -> BusState` of R9 and R40 for each supplied bus, with no body. -/
opaque Config.busWrite : Nat → BusState → Word → Byte → BusState

/-- The two instruction parameters of R9 with their defaults. -/
structure Params where
  pHalt : HaltParam := .haltStops
  pStop : StopParam := .stopStops
  deriving DecidableEq, Repr

end Sys2Proof
end

