-- ==== Sys2Proof/Machine/State.lean ====
section
/-! DEFINITION. The state of the core as plain data (spec/10_state.md R20–R32, spec/20_memory.md R43), the reasons a run can stop, and
the state after reset. -/

namespace Sys2Proof.Machine

/-- The run state of R29. -/
inductive RunState where
  | running  -- a step executes one instruction
  | halted   -- entered by HALT
  | stopped  -- entered by STOP
  | faulted  -- entered by the fatal fault of R230
  deriving DecidableEq, Repr

/-- The fault record of R30: the offending opcode and the address of its byte. -/
structure FaultRecord where
  opcode : Byte
  pc     : Word
  deriving DecidableEq, Repr

/-- The bus and its state (R40, R43): which bus it is, and its `BusState`. For `RefMap` and `FlatRAM` the cells are the bytes that differ
from what an unlisted address reads as, by address in rising order; for a supplied bus they are its own state. -/
structure Memory where
  bus   : BusKind
  cells : BusState
  deriving DecidableEq, Repr

/-- Everything the spec gives the machine. `faultRec` is the record of R30 (absent unless FAULTED); `params` holds P_HALT and P_STOP of
R9, which no step changes. -/
structure State where
  a : Byte
  f : Byte
  b : Byte
  c : Byte
  d : Byte
  e : Byte
  h : Byte
  l : Byte
  sp : Word
  pc : Word
  ime : Bool
  run : RunState
  faultRec : Option FaultRecord
  mem : Memory
  params : Params
  deriving DecidableEq, Repr

/-- Reasons that end a run outside the machine's own states. UnimplementedOpcode (R230) is not here: it leaves a state, FAULTED, and is
a next state (log entry 5). -/
inductive Fault where
  /-- The construction failure `BootImageSize` of R231, with the length supplied. Raised by `State.construct` alone, never by a step.
  Safe: the spec builds no state there. -/
  | bootImageSize (length : Nat)
  deriving DecidableEq, Repr

/-- Instructions with no meaning in the model. -/
inductive Refusal where
  /-- An instruction whose meaning is not written yet, raised by `exec` alone. Safe: the hardware goes on where the model stops. No arm
  of `exec` answers with it any more. -/
  | notModelled (mnemonic : String)
  deriving DecidableEq, Repr

/-- The CPU part of R250 over a bus in its initial state, which under a bus other than `RefMap` is an input of the model: PC at 0x0100, every other register 0, IME 0, RUNNING, no fault record. -/
def State.resetOn (mem : Memory) (params : Params) : State where
  a := 0
  f := 0
  b := 0
  c := 0
  d := 0
  e := 0
  h := 0
  l := 0
  sp := 0
  pc := 0x0100
  ime := false
  run := .running
  faultRec := none
  mem := mem
  params := params

/-- The machine right after reset (R32, R47, R250): `RefMap`, WRAM and HRAM zero, the default parameters of R9. The boot image is a
free argument of the spec with no default; here it is the image of 256 zero bytes (DESIGN CHOICE, log entry 1). -/
def State.reset : State := State.resetOn { bus := .refMap, cells := [] } {}

end Sys2Proof.Machine
end

