-- ==== Sys2Proof/Machine/Ops.lean ====
section
/-! DEFINITION. The named operations over memory, PC, SP, F and the run state that every meaning is built from: the buses of
spec/20_memory.md, the stack of spec/45_control.md R170 and R171, and the fault entry of spec/60_exceptions.md R230. -/

namespace Sys2Proof.Machine

/-! ## Memory -/

/-- The regions of the address map: those of R43, the undivided storage of `FlatRAM` (R40), and the whole space of a supplied bus, which
answers every access itself. -/
inductive Region where
  | bootImage | wram | hram | flat | unmapped | outside
  deriving DecidableEq, Repr

/-- Which region an address lies in (R43; R40 for `FlatRAM`). -/
def busRegion : BusKind → Word → Region
  | .supplied _, _ => .outside
  | .flatRam, _ => .flat
  | .refMap, x =>
    if x.toNat ≤ 0x00FF then .bootImage
    else if 0xC000 ≤ x.toNat ∧ x.toNat ≤ 0xDFFF then .wram
    else if 0xFF80 ≤ x.toNat ∧ x.toNat ≤ 0xFFFE then .hram
    else .unmapped

/-- A region with storage of its own among the cells (R15, backed region). -/
def Region.backed : Region → Bool
  | .unmapped => false
  | .outside => false
  | _ => true

/-- A region whose cells a write reaches: not the read-only boot image (R44) and not unmapped space (R48). -/
def Region.writable : Region → Bool
  | .unmapped => false
  | .outside => false
  | .bootImage => false
  | _ => true

/-- What an address that memory does not list reads as: 0xFF where unmapped (R48), else 0x00: WRAM and HRAM as R47 has them, the boot
image and `FlatRAM` by DESIGN CHOICE (log entries 1 and 3). -/
def busUnlisted (bus : BusKind) (x : Word) : Byte :=
  if (busRegion bus x).backed then 0x00#8 else 0xFF#8

/-- The byte a list of cells gives an address, if it lists one. -/
def cellsGet (k : Nat) : List Host.Cell → Option Byte
  | [] => none
  | cell :: rest => if cell.1 = k then some cell.2 else cellsGet k rest

/-- A cell put in its place by address, in a list in rising order. -/
def cellsInsert (k : Nat) (v : Byte) : List Host.Cell → List Host.Cell
  | [] => [(k, v)]
  | cell :: rest =>
    if k < cell.1 then (k, v) :: cell :: rest
    else if k = cell.1 then (k, v) :: rest
    else cell :: cellsInsert k v rest

/-- A cell set to a byte: the value an unlisted address reads as, `dflt`, is not listed, so the list keeps its canonical form. -/
def cellsSet (k : Nat) (v dflt : Byte) (cells : List Host.Cell) : List Host.Cell :=
  if v = dflt then cells.filter (fun cell => cell.1 ≠ k) else cellsInsert k v cells

/-- Addresses strictly rising. -/
def cellsRising : List Host.Cell → Bool
  | [] => true
  | cell :: rest => rest.all (fun other => cell.1 < other.1) && cellsRising rest

/-- A read of `RefMap` or `FlatRAM` (R40, R43, R48). -/
def Memory.cellRead (m : Memory) (x : Word) : Byte :=
  if (busRegion m.bus x).backed then (cellsGet x.toNat m.cells).getD (busUnlisted m.bus x) else busUnlisted m.bus x

/-- A byte put into backed storage of `RefMap` or `FlatRAM`, read-only or not. -/
def Memory.cellLoad (m : Memory) (x : Word) (v : Byte) : Memory :=
  if (busRegion m.bus x).backed then { m with cells := cellsSet x.toNat v (busUnlisted m.bus x) m.cells } else m

/-- A write to a supplied bus. -/
def Memory.busWrite (m : Memory) (k : Nat) (x : Word) (v : Byte) : Memory :=
  { m with cells := Config.busWrite k m.cells x v }

/-- The byte that the bus read of R40 answers; it is total. -/
def Memory.read (m : Memory) (x : Word) : Byte :=
  match m.bus with
  | .refMap => m.cellRead x
  | .flatRam => m.cellRead x
  | .supplied k => Config.busRead k m.cells x

/-- What a read leaves of the bus: on `RefMap` and `FlatRAM` it changes nothing (R40, R50); a supplied bus may be changed by it (R50, D3). -/
def Memory.afterRead (m : Memory) (x : Word) : Memory :=
  match m.bus with
  | .refMap => m
  | .flatRam => m
  | .supplied k => { m with cells := Config.busAfterRead k m.cells x }

/-- What is left after `n` reads at an address and those after it, in address order. -/
def Memory.afterReads (m : Memory) (x : Word) : Nat → Memory
  | 0 => m
  | n + 1 => (m.afterRead x).afterReads (x + 1) n

/-- How the boot image is loaded, and how a host writes memory between steps: into storage, read-only or not; through its own write on a
supplied bus. -/
def Memory.load (m : Memory) (x : Word) (v : Byte) : Memory :=
  match m.bus with
  | .refMap => m.cellLoad x v
  | .flatRam => m.cellLoad x v
  | .supplied k => m.busWrite k x v

/-- The bus write of R40: under `RefMap`, discarded in the boot image (R44) and where unmapped (R48). -/
def Memory.write (m : Memory) (x : Word) (v : Byte) : Memory :=
  match m.bus with
  | .refMap => if (busRegion m.bus x).writable then m.cellLoad x v else m
  | .flatRam => m.cellLoad x v
  | .supplied k => m.busWrite k x v

/-- Cells in rising order of address, each backed and none with the byte it would read unlisted. -/
def Memory.cellsWf (m : Memory) : Bool :=
  cellsRising m.cells &&
  m.cells.all (fun cell =>
    decide (cell.1 < 65536) && (busRegion m.bus (BitVec.ofNat 16 cell.1)).backed &&
    decide (cell.2 ≠ busUnlisted m.bus (BitVec.ofNat 16 cell.1)))

/-- The canonical form of the cells of `RefMap` and `FlatRAM`: see `Memory.cellsWf`. The state of a supplied bus is its own, in any form. -/
def Memory.wf (m : Memory) : Bool :=
  match m.bus with
  | .supplied _ => true
  | .refMap => m.cellsWf
  | .flatRam => m.cellsWf

/-- `read16` of R41: the low byte first, then the high byte at the next address, which wraps (R57, D9). -/
def Memory.read16 (m : Memory) (x : Word) : Word := word ((m.afterRead x).read (x + 1)) (m.read x)

/-- What `read16` leaves of the bus. -/
def Memory.afterRead16 (m : Memory) (x : Word) : Memory := (m.afterRead x).afterRead (x + 1)

/-- `write16` of R41: the low byte first, then the high byte at the next address, which wraps. -/
def Memory.write16 (m : Memory) (x v : Word) : Memory := (m.write x (loByte v)).write (x + 1) (hiByte v)

/-- The byte of `MemRead(x, 1)` (R13); `State.afterRead` is what the read leaves. -/
def State.read (s : State) (x : Word) : Byte := s.mem.read x

/-- What `MemRead(x, 1)` leaves: the state as it was, but for a supplied bus that reads change (R50). -/
def State.afterRead (s : State) (x : Word) : State := { s with mem := s.mem.afterRead x }

/-- `MemWrite(x, 1, v)` (R13). -/
def State.write (s : State) (x : Word) (v : Byte) : State := { s with mem := s.mem.write x v }

/-- The word of `MemRead(x, 2)` (R13); `State.afterRead16` is what its two reads leave. -/
def State.read16 (s : State) (x : Word) : Word := s.mem.read16 x

/-- What `MemRead(x, 2)` leaves. -/
def State.afterRead16 (s : State) (x : Word) : State := { s with mem := s.mem.afterRead16 x }

/-- What `n` byte reads leave, at an address and those after it, in address order. -/
def State.afterReads (s : State) (x : Word) (n : Nat) : State := { s with mem := s.mem.afterReads x n }

/-- `MemWrite(x, 2, v)` (R13). -/
def State.write16 (s : State) (x v : Word) : State := { s with mem := s.mem.write16 x v }

/-! ## The flag register -/

/-- F as it reads: bits 3..0 are 0 at all times (R23; log entry 9). -/
def State.readF (s : State) : Byte := s.f &&& 0xF0#8

/-- The one write to F: `r.F <- v & 0xF0` (R23). -/
def State.writeF (s : State) (v : Byte) : State := { s with f := v &&& 0xF0#8 }

/-- `flag.Z` (R24). -/
def State.flagZ (s : State) : Bool := s.f.getLsbD 7

/-- `flag.N` (R24). -/
def State.flagN (s : State) : Bool := s.f.getLsbD 6

/-- `flag.H` (R24). -/
def State.flagH (s : State) : Bool := s.f.getLsbD 5

/-- `flag.C` (R24). -/
def State.flagC (s : State) : Bool := s.f.getLsbD 4

/-! ## Program counter, run state, interrupt hook -/

/-- The fetches of the step: PC moves past the `n` bytes of the instruction, modulo 65536 (R26, R81, R88). -/
def State.advance (s : State) (n : Nat) : State := { s with pc := s.pc + BitVec.ofNat 16 n }

/-- A control transfer: `PC <- target`. -/
def State.jump (s : State) (target : Word) : State := { s with pc := target }

/-- `IME <- v` (R28). -/
def State.setIme (s : State) (v : Bool) : State := { s with ime := v }

/-- `SP <- v` (R27). -/
def State.setSp (s : State) (v : Word) : State := { s with sp := v }

/-- The run state a HALT or STOP enters (R29). -/
def State.enter (s : State) (r : RunState) : State := { s with run := r }

/-- `raise UnimplementedOpcode(opcode, pc)` of R230, from the state before the instruction's fetch: FAULTED, the record filled with the
opcode and the address of its byte, PC one past it, all else unchanged. -/
def State.raiseUnimplemented (s : State) (opcode : Byte) : State :=
  { s with run := .faulted, faultRec := some ⟨opcode, s.pc⟩, pc := s.pc + 1 }

/-- What a step reports to the host beside the new state (R230): `none` is `Ok`, `some opcode` is `Fault(UnimplementedOpcode, opcode)`. -/
def State.report (s : State) : Option Byte :=
  match s.run with
  | .faulted => s.faultRec.map (·.opcode)
  | _ => none

/-! ## Stack -/

/-- `push16` of R170. -/
def State.push16 (s : State) (v : Word) : State := (s.setSp (s.sp - 2)).write16 (s.sp - 2) v

/-- The value `pop16` of R171 returns. -/
def State.top16 (s : State) : Word := s.read16 s.sp

/-- What `pop16` of R171 leaves: its two reads are done and SP is two higher. -/
def State.drop16 (s : State) : State := (s.afterRead16 s.sp).setSp (s.sp + 2)

/-! ## Construction -/

/-- The cells of a boot image laid out from address `k`, less the bytes that are not listed. -/
def bootCells (k : Nat) : List Byte → List Host.Cell
  | [] => []
  | v :: rest => if v = 0x00#8 then bootCells (k + 1) rest else (k, v) :: bootCells (k + 1) rest

/-- `construct(BootImage)` of R250 under `RefMap`: a boot image of 256 bytes gives the reset state with that image; any other length is
the construction failure of R231. -/
def State.construct (boot : List Byte) (params : Params) : Host.Outcome State Fault Refusal :=
  if boot.length = 256 then .next (State.resetOn { bus := .refMap, cells := bootCells 0 boot } params)
  else .fault (.bootImageSize boot.length)

end Sys2Proof.Machine
end

