-- ==== Sys2Proof/Syntax.lean ====
section
/-! DEFINITION. The instructions of the core, one constructor per row of spec/opcode_table.json in the table's order, and their
operand types (spec/30_encoding.md R63). -/

namespace Sys2Proof

/-- The 3-bit 8-bit-operand index `r8` of R63 and R84; `hlInd` is index 6, the byte of memory at HL. -/
inductive R8 where
  | b | c | d | e | h | l | hlInd | a
  deriving DecidableEq, Repr

/-- The 2-bit pair index `rr` of R63 and R86. -/
inductive RR where
  | bc | de | hl | sp
  deriving DecidableEq, Repr

/-- The 2-bit pair index `rr_stk` of PUSH and POP (R63, R87). -/
inductive RStk where
  | bc | de | hl | af
  deriving DecidableEq, Repr

/-- The 2-bit condition `cc` of R63 and R90. -/
inductive Cond where
  | nz | z | nc | c
  deriving DecidableEq, Repr

/-- One constructor per row of spec/opcode_table.json; the docstring names the row and its rule. -/
inductive Instr where
  /-- R195: `NOP`. -/
  | nop
  /-- R120: `LD rr,d16`. -/
  | ldRrD16 (rr : RR) (d16 : Word)
  /-- R102: `LD (BC),A`. -/
  | ldBcIndA
  /-- R103: `LD (DE),A`. -/
  | ldDeIndA
  /-- R106: `LD (HL+),A`. -/
  | ldHlIncA
  /-- R107: `LD (HL-),A`. -/
  | ldHlDecA
  /-- R161: `INC rr`. -/
  | incRr (rr : RR)
  /-- R149: `INC r8`. -/
  | incR8 (dst : R8)
  /-- R150: `DEC r8`. -/
  | decR8 (dst : R8)
  /-- R101: `LD r8,d8`. -/
  | ldR8D8 (dst : R8) (d8 : Byte)
  /-- R200: `RLCA`. -/
  | rlca
  /-- R121: `LD (a16),SP`. -/
  | ldA16Sp (a16 : Word)
  /-- R163: `ADD HL,rr`. -/
  | addHlRr (rr : RR)
  /-- R104: `LD A,(BC)`. -/
  | ldABcInd
  /-- R105: `LD A,(DE)`. -/
  | ldADeInd
  /-- R108: `LD A,(HL+)`. -/
  | ldAHlInc
  /-- R109: `LD A,(HL-)`. -/
  | ldAHlDec
  /-- R162: `DEC rr`. -/
  | decRr (rr : RR)
  /-- R201: `RRCA`. -/
  | rrca
  /-- R197: `STOP`, with the second byte that is fetched and ignored. -/
  | stop (x : Byte)
  /-- R202: `RLA`. -/
  | rla
  /-- R175: `JR e8`. -/
  | jrE8 (e8 : Byte)
  /-- R203: `RRA`. -/
  | rra
  /-- R176: `JR cc,e8`. -/
  | jrCcE8 (cc : Cond) (e8 : Byte)
  /-- R151: `DAA`. -/
  | daa
  /-- R152: `CPL`. -/
  | cpl
  /-- R153: `SCF`. -/
  | scf
  /-- R154: `CCF`. -/
  | ccf
  /-- R100: `LD r8,r8`; not both operands `(HL)` (R69). -/
  | ldR8R8 (dst src : R8)
  /-- R196: `HALT`. -/
  | halt
  /-- R133: `ADD A,r8`. -/
  | addAR8 (r : R8)
  /-- R134: `ADC A,r8`. -/
  | adcAR8 (r : R8)
  /-- R135: `SUB r8`. -/
  | subR8 (r : R8)
  /-- R136: `SBC A,r8`. -/
  | sbcAR8 (r : R8)
  /-- R137: `AND r8`. -/
  | andR8 (r : R8)
  /-- R138: `XOR r8`. -/
  | xorR8 (r : R8)
  /-- R139: `OR r8`. -/
  | orR8 (r : R8)
  /-- R140: `CP r8`. -/
  | cpR8 (r : R8)
  /-- R141: `ADD A,d8`. -/
  | addAD8 (d8 : Byte)
  /-- R142: `ADC A,d8`. -/
  | adcAD8 (d8 : Byte)
  /-- R143: `SUB d8`. -/
  | subD8 (d8 : Byte)
  /-- R144: `SBC A,d8`. -/
  | sbcAD8 (d8 : Byte)
  /-- R145: `AND d8`. -/
  | andD8 (d8 : Byte)
  /-- R146: `XOR d8`. -/
  | xorD8 (d8 : Byte)
  /-- R147: `OR d8`. -/
  | orD8 (d8 : Byte)
  /-- R148: `CP d8`. -/
  | cpD8 (d8 : Byte)
  /-- R180: `RET cc`. -/
  | retCc (cc : Cond)
  /-- R191: `POP rr`. -/
  | popRr (rr : RStk)
  /-- R173: `JP cc,a16`. -/
  | jpCcA16 (cc : Cond) (a16 : Word)
  /-- R172: `JP a16`. -/
  | jpA16 (a16 : Word)
  /-- R178: `CALL cc,a16`. -/
  | callCcA16 (cc : Cond) (a16 : Word)
  /-- R190: `PUSH rr`. -/
  | pushRr (rr : RStk)
  /-- R182: `RST t`. -/
  | rst (t : BitVec 3)
  /-- R179: `RET`. -/
  | ret
  /-- R82: `PREFIX CB`: the table row of the prefix byte; not an instruction of its own (R68, log entry 7). -/
  | prefixCb (op2 : Byte)
  /-- R177: `CALL a16`. -/
  | callA16 (a16 : Word)
  /-- R181: `RETI`. -/
  | reti
  /-- R110: `LDH (a8),A`. -/
  | ldhA8A (a8 : Byte)
  /-- R112: `LD (C),A`. -/
  | ldCIndA
  /-- R164: `ADD SP,e8`. -/
  | addSpE8 (e8 : Byte)
  /-- R174: `JP (HL)`. -/
  | jpHl
  /-- R114: `LD (a16),A`. -/
  | ldA16A (a16 : Word)
  /-- R111: `LDH A,(a8)`. -/
  | ldhAA8 (a8 : Byte)
  /-- R113: `LD A,(C)`. -/
  | ldACInd
  /-- R198: `DI`. -/
  | di
  /-- R123: `LD HL,SP+e8`. -/
  | ldHlSpE8 (e8 : Byte)
  /-- R122: `LD SP,HL`. -/
  | ldSpHl
  /-- R115: `LD A,(a16)`. -/
  | ldAA16 (a16 : Word)
  /-- R199: `EI`. -/
  | ei
  /-- R67, R230: opcode 0xD3, no defined operation. -/
  | unimplD3
  /-- R67, R230: opcode 0xDB, no defined operation. -/
  | unimplDB
  /-- R67, R230: opcode 0xDD, no defined operation. -/
  | unimplDD
  /-- R67, R230: opcode 0xE3, no defined operation. -/
  | unimplE3
  /-- R67, R230: opcode 0xE4, no defined operation. -/
  | unimplE4
  /-- R67, R230: opcode 0xEB, no defined operation. -/
  | unimplEB
  /-- R67, R230: opcode 0xEC, no defined operation. -/
  | unimplEC
  /-- R67, R230: opcode 0xED, no defined operation. -/
  | unimplED
  /-- R67, R230: opcode 0xF4, no defined operation. -/
  | unimplF4
  /-- R67, R230: opcode 0xFC, no defined operation. -/
  | unimplFC
  /-- R67, R230: opcode 0xFD, no defined operation. -/
  | unimplFD
  /-- R211: `RLC r8`. -/
  | rlc (r : R8)
  /-- R212: `RRC r8`. -/
  | rrc (r : R8)
  /-- R213: `RL r8`. -/
  | rl (r : R8)
  /-- R214: `RR r8`. -/
  | rr (r : R8)
  /-- R215: `SLA r8`. -/
  | sla (r : R8)
  /-- R216: `SRA r8`. -/
  | sra (r : R8)
  /-- R217: `SWAP r8`. -/
  | swap (r : R8)
  /-- R218: `SRL r8`. -/
  | srl (r : R8)
  /-- R219: `BIT b,r8`. -/
  | bit (b : BitVec 3) (r : R8)
  /-- R220: `RES b,r8`. -/
  | res (b : BitVec 3) (r : R8)
  /-- R221: `SET b,r8`. -/
  | set (b : BitVec 3) (r : R8)
  deriving DecidableEq, Repr

end Sys2Proof
end

