-- ==== Sys2Proof/Machine/Operands.lean ====
section
/-! DEFINITION. The addressing unit of spec/40_dispatch.md (R84–R90): 8-bit operands, register pairs, conditions, and the pair views of
spec/10_state.md R22. -/

namespace Sys2Proof.Machine

/-- `pair(AF)` (R22), F reading as R23 has it. -/
def State.pairAF (s : State) : Word := word s.a s.readF

/-- `pair(BC)` (R22). -/
def State.pairBC (s : State) : Word := word s.b s.c

/-- `pair(DE)` (R22). -/
def State.pairDE (s : State) : Word := word s.d s.e

/-- `pair(HL)` (R22). -/
def State.pairHL (s : State) : Word := word s.h s.l

/-- `r.A <- v`. -/
def State.setA (s : State) (v : Byte) : State := { s with a := v }

/-- `pair(AF) <- v`: F takes `v[7:0] & 0xF0` (R22, R23). -/
def State.setAF (s : State) (v : Word) : State := (s.setA (hiByte v)).writeF (loByte v)

/-- `pair(BC) <- v` (R22). -/
def State.setBC (s : State) (v : Word) : State := { s with b := hiByte v, c := loByte v }

/-- `pair(DE) <- v` (R22). -/
def State.setDE (s : State) (v : Word) : State := { s with d := hiByte v, e := loByte v }

/-- `pair(HL) <- v` (R22). -/
def State.setHL (s : State) (v : Word) : State := { s with h := hiByte v, l := loByte v }

/-- The byte of `get8` of R85; index 6 is one bus read at HL. -/
def State.get8 (s : State) : R8 → Byte
  | .b => s.b
  | .c => s.c
  | .d => s.d
  | .e => s.e
  | .h => s.h
  | .l => s.l
  | .hlInd => s.read s.pairHL
  | .a => s.a

/-- What `get8` leaves: for index 6, what its bus read leaves (R50); a register is read with no effect. -/
def State.afterGet8 (s : State) (r : R8) : State :=
  { s with mem :=
      match r with
      | .hlInd => s.mem.afterRead s.pairHL
      | .b | .c | .d | .e | .h | .l | .a => s.mem }

/-- `set8` of R85; index 6 is one bus write at HL. -/
def State.set8 (s : State) (r : R8) (v : Byte) : State :=
  match r with
  | .b => { s with b := v }
  | .c => { s with c := v }
  | .d => { s with d := v }
  | .e => { s with e := v }
  | .h => { s with h := v }
  | .l => { s with l := v }
  | .hlInd => s.write s.pairHL v
  | .a => s.setA v

/-- `get16` of R86. -/
def State.get16 (s : State) : RR → Word
  | .bc => s.pairBC
  | .de => s.pairDE
  | .hl => s.pairHL
  | .sp => s.sp

/-- `set16` of R86. -/
def State.set16 (s : State) (rr : RR) (v : Word) : State :=
  match rr with
  | .bc => s.setBC v
  | .de => s.setDE v
  | .hl => s.setHL v
  | .sp => s.setSp v

/-- `get16stk` of R87. -/
def State.get16stk (s : State) : RStk → Word
  | .bc => s.pairBC
  | .de => s.pairDE
  | .hl => s.pairHL
  | .af => s.pairAF

/-- `set16stk` of R87. -/
def State.set16stk (s : State) (rr : RStk) (v : Word) : State :=
  match rr with
  | .bc => s.setBC v
  | .de => s.setDE v
  | .hl => s.setHL v
  | .af => s.setAF v

/-- `cond` of R90. -/
def State.cond (s : State) : Cond → Bool
  | .nz => !s.flagZ
  | .z => s.flagZ
  | .nc => !s.flagC
  | .c => s.flagC

end Sys2Proof.Machine
end

