-- ==== Sys2Proof/Machine/Flags.lean ====
section
/-! DEFINITION. Every result and flag computation of the spec: the primitives of spec/43_alu8.md R130–R132, DAA (R151), the 16-bit sums
of spec/44_alu16.md R160 and R163, the rotates and shifts of spec/47_misc.md and spec/48_cb_prefix.md, and the flag write of
spec/00_scope.md R14. -/

namespace Sys2Proof.Machine

/-- F with the four flags given, bits 3..0 zero (R24). -/
def packFlags (z n h c : Bool) : Byte :=
  bitByte z <<< 7 ||| bitByte n <<< 6 ||| bitByte h <<< 5 ||| bitByte c <<< 4

/-- The flag line `Z=z N=n H=h C=c` of R14; a flag the line keeps is passed as the state has it. -/
def State.setFlags (s : State) (z n h c : Bool) : State := s.writeF (packFlags z n h c)

/-- A result with its half-carry and carry. -/
structure Sum (w : Nat) where
  res : BitVec w
  h : Bool
  c : Bool
  deriving DecidableEq, Repr

/-- `add8` of R130, the exact sum narrowed at the end. -/
def add8 (x y : Byte) (cin : Bool) : Sum 8 where
  res := BitVec.ofNat 8 (x.toNat + y.toNat + cin.toNat)
  h := decide (x.toNat % 16 + y.toNat % 16 + cin.toNat > 0x0F)
  c := decide (x.toNat + y.toNat + cin.toNat > 0xFF)

/-- `sub8` of R131, the exact difference narrowed at the end. -/
def sub8 (x y : Byte) (cin : Bool) : Sum 8 where
  res := BitVec.ofInt 8 ((x.toNat : Int) - (y.toNat : Int) - (cin.toNat : Int))
  h := decide (x.toNat % 16 < y.toNat % 16 + cin.toNat)
  c := decide (x.toNat < y.toNat + cin.toNat)

/-- The sum of ADD HL,rr (R163): carry out of bit 11 and bit 15. -/
def add16 (x y : Word) : Sum 16 where
  res := BitVec.ofNat 16 (x.toNat + y.toNat)
  h := decide (x.toNat % 4096 + y.toNat % 4096 > 0x0FFF)
  c := decide (x.toNat + y.toNat > 0xFFFF)

/-- `sp_add_e8` of R160: the displacement is signed for the sum, an unsigned byte for the flags. -/
def spAddE8 (sp : Word) (e : Byte) : Sum 16 where
  res := sp + sext16 e
  h := decide (sp.toNat % 16 + e.toNat % 16 > 0x0F)
  c := decide (sp.toNat % 256 + e.toNat > 0xFF)

/-- DAA of R151: the corrected A and the new carry. -/
def daaAdjust (a : Byte) (n h c : Bool) : Byte × Bool :=
  if n then
    let a1 := if c then a - 0x60#8 else a
    let a2 := if h then a1 - 0x06#8 else a1
    (a2, c)
  else
    let high := c || decide (a.toNat > 0x99)
    let a1 := if high then a + 0x60#8 else a
    let a2 := if h || decide (a1.toNat % 16 > 0x09) then a1 + 0x06#8 else a1
    (a2, high)

/-- Rotate left, the bit out also coming in (R200, R211). -/
def rotLeft (v : Byte) : Byte × Bool := (v <<< 1 ||| bitByte (v.getLsbD 7), v.getLsbD 7)

/-- Rotate right, the bit out also coming in (R201, R212). -/
def rotRight (v : Byte) : Byte × Bool := (v >>> 1 ||| bitByte (v.getLsbD 0) <<< 7, v.getLsbD 0)

/-- Rotate left through the carry (R202, R213). -/
def rotLeftC (v : Byte) (cin : Bool) : Byte × Bool := (v <<< 1 ||| bitByte cin, v.getLsbD 7)

/-- Rotate right through the carry (R203, R214). -/
def rotRightC (v : Byte) (cin : Bool) : Byte × Bool := (v >>> 1 ||| bitByte cin <<< 7, v.getLsbD 0)

/-- Shift left, 0 entering (R215). -/
def shiftLeft (v : Byte) : Byte × Bool := (v <<< 1, v.getLsbD 7)

/-- Arithmetic shift right, bit 7 kept (R216). -/
def shiftRightA (v : Byte) : Byte × Bool := (v >>> 1 ||| v &&& 0x80#8, v.getLsbD 0)

/-- Exchange of the nibbles; the carry it writes is 0 (R217). -/
def swapNibbles (v : Byte) : Byte × Bool := ((v &&& 0x0F#8) <<< 4 ||| v >>> 4, false)

/-- Logical shift right, 0 entering (R218). -/
def shiftRightL (v : Byte) : Byte × Bool := (v >>> 1, v.getLsbD 0)

/-- `1 << b` (R220, R221). -/
def bitMask (b : BitVec 3) : Byte := 1#8 <<< b.toNat

/-! Shared shapes of the instruction rules, each on the state whose PC is already past the instruction. -/

/-- ADD and ADC (R133, R134, R141, R142). -/
def State.accAdd (s : State) (v : Byte) (cin : Bool) : State :=
  let r := add8 s.a v cin
  (s.setA r.res).setFlags (r.res == 0#8) false r.h r.c

/-- SUB and SBC (R135, R136, R143, R144). -/
def State.accSub (s : State) (v : Byte) (cin : Bool) : State :=
  let r := sub8 s.a v cin
  (s.setA r.res).setFlags (r.res == 0#8) true r.h r.c

/-- CP: the flags of a subtraction, A not written (R140, R148). -/
def State.accCp (s : State) (v : Byte) : State :=
  let r := sub8 s.a v false
  s.setFlags (r.res == 0#8) true r.h r.c

/-- AND, XOR and OR: a result with Z from it, N = 0, C = 0 and H as the instruction has it (R137–R139, R145–R147). -/
def State.accLogic (s : State) (res : Byte) (h : Bool) : State :=
  (s.setA res).setFlags (res == 0#8) false h false

/-- RLCA, RRCA, RLA and RRA: Z = 0 whatever the result (R200–R203). -/
def State.accRotate (s : State) (r : Byte × Bool) : State :=
  (s.setA r.1).setFlags false false false r.2

/-- The rotates, shifts and SWAP of the 0xCB space: operand written back, Z from the result (R210–R218). -/
def State.writeShift (s : State) (dst : R8) (r : Byte × Bool) : State :=
  (s.set8 dst r.1).setFlags (r.1 == 0#8) false false r.2

end Sys2Proof.Machine
end

