-- ==== Sys2Proof/Machine/Alu16.lean ====
section
/-! DEFINITION. 16-bit arithmetic, spec/44_alu16.md R161–R164. -/

namespace Sys2Proof.Machine

/-- `INC rr` (R161). -/
def execIncRr (rr : RR) (s : State) : Host.Outcome State Fault Refusal :=
  let t := s.advance 1
  .next (t.set16 rr (t.get16 rr + 1))

/-- `DEC rr` (R162). -/
def execDecRr (rr : RR) (s : State) : Host.Outcome State Fault Refusal :=
  let t := s.advance 1
  .next (t.set16 rr (t.get16 rr - 1))

/-- `ADD HL,rr` (R163). -/
def execAddHlRr (rr : RR) (s : State) : Host.Outcome State Fault Refusal :=
  let t := s.advance 1
  let r := add16 t.pairHL (t.get16 rr)
  .next ((t.setHL r.res).setFlags t.flagZ false r.h r.c)

/-- `ADD SP,e8` (R164). -/
def execAddSpE8 (e8 : Byte) (s : State) : Host.Outcome State Fault Refusal :=
  let t := s.advance 2
  let r := spAddE8 t.sp e8
  .next ((t.setSp r.res).setFlags false false r.h r.c)

end Sys2Proof.Machine
end

