-- ==== Sys2Proof/Machine/Alu8.lean ====
section
/-! DEFINITION. 8-bit ALU, increments and flag instructions, spec/43_alu8.md R133–R154. -/

namespace Sys2Proof.Machine

/-- `ADD A,r8` (R133). -/
def execAddAR8 (r : R8) (s : State) : Host.Outcome State Fault Refusal :=
  let t := s.advance 1
  .next ((t.afterGet8 r).accAdd (t.get8 r) false)

/-- `ADC A,r8` (R134). -/
def execAdcAR8 (r : R8) (s : State) : Host.Outcome State Fault Refusal :=
  let t := s.advance 1
  .next ((t.afterGet8 r).accAdd (t.get8 r) t.flagC)

/-- `SUB r8` (R135). -/
def execSubR8 (r : R8) (s : State) : Host.Outcome State Fault Refusal :=
  let t := s.advance 1
  .next ((t.afterGet8 r).accSub (t.get8 r) false)

/-- `SBC A,r8` (R136). -/
def execSbcAR8 (r : R8) (s : State) : Host.Outcome State Fault Refusal :=
  let t := s.advance 1
  .next ((t.afterGet8 r).accSub (t.get8 r) t.flagC)

/-- `AND r8` (R137). -/
def execAndR8 (r : R8) (s : State) : Host.Outcome State Fault Refusal :=
  let t := s.advance 1
  .next ((t.afterGet8 r).accLogic (t.a &&& t.get8 r) true)

/-- `XOR r8` (R138). -/
def execXorR8 (r : R8) (s : State) : Host.Outcome State Fault Refusal :=
  let t := s.advance 1
  .next ((t.afterGet8 r).accLogic (t.a ^^^ t.get8 r) false)

/-- `OR r8` (R139). -/
def execOrR8 (r : R8) (s : State) : Host.Outcome State Fault Refusal :=
  let t := s.advance 1
  .next ((t.afterGet8 r).accLogic (t.a ||| t.get8 r) false)

/-- `CP r8` (R140). -/
def execCpR8 (r : R8) (s : State) : Host.Outcome State Fault Refusal :=
  let t := s.advance 1
  .next ((t.afterGet8 r).accCp (t.get8 r))

/-- `ADD A,d8` (R141). -/
def execAddAD8 (d8 : Byte) (s : State) : Host.Outcome State Fault Refusal :=
  let t := s.advance 2
  .next (t.accAdd d8 false)

/-- `ADC A,d8` (R142). -/
def execAdcAD8 (d8 : Byte) (s : State) : Host.Outcome State Fault Refusal :=
  let t := s.advance 2
  .next (t.accAdd d8 t.flagC)

/-- `SUB d8` (R143). -/
def execSubD8 (d8 : Byte) (s : State) : Host.Outcome State Fault Refusal :=
  let t := s.advance 2
  .next (t.accSub d8 false)

/-- `SBC A,d8` (R144). -/
def execSbcAD8 (d8 : Byte) (s : State) : Host.Outcome State Fault Refusal :=
  let t := s.advance 2
  .next (t.accSub d8 t.flagC)

/-- `AND d8` (R145). -/
def execAndD8 (d8 : Byte) (s : State) : Host.Outcome State Fault Refusal :=
  let t := s.advance 2
  .next (t.accLogic (t.a &&& d8) true)

/-- `XOR d8` (R146). -/
def execXorD8 (d8 : Byte) (s : State) : Host.Outcome State Fault Refusal :=
  let t := s.advance 2
  .next (t.accLogic (t.a ^^^ d8) false)

/-- `OR d8` (R147). -/
def execOrD8 (d8 : Byte) (s : State) : Host.Outcome State Fault Refusal :=
  let t := s.advance 2
  .next (t.accLogic (t.a ||| d8) false)

/-- `CP d8` (R148). -/
def execCpD8 (d8 : Byte) (s : State) : Host.Outcome State Fault Refusal :=
  let t := s.advance 2
  .next (t.accCp d8)

/-- `INC r8` (R149). -/
def execIncR8 (dst : R8) (s : State) : Host.Outcome State Fault Refusal :=
  let t := s.advance 1
  let v := t.get8 dst
  let res := v + 1#8
  .next (((t.afterGet8 dst).set8 dst res).setFlags (res == 0#8) false (v &&& 0x0F#8 == 0x0F#8) t.flagC)

/-- `DEC r8` (R150). -/
def execDecR8 (dst : R8) (s : State) : Host.Outcome State Fault Refusal :=
  let t := s.advance 1
  let v := t.get8 dst
  let res := v - 1#8
  .next (((t.afterGet8 dst).set8 dst res).setFlags (res == 0#8) true (v &&& 0x0F#8 == 0x00#8) t.flagC)

/-- `DAA` (R151). -/
def execDaa (s : State) : Host.Outcome State Fault Refusal :=
  let t := s.advance 1
  let r := daaAdjust t.a t.flagN t.flagH t.flagC
  .next ((t.setA r.1).setFlags (r.1 == 0#8) t.flagN false r.2)

/-- `CPL` (R152). -/
def execCpl (s : State) : Host.Outcome State Fault Refusal :=
  let t := s.advance 1
  .next ((t.setA (~~~t.a)).setFlags t.flagZ true true t.flagC)

/-- `SCF` (R153). -/
def execScf (s : State) : Host.Outcome State Fault Refusal :=
  let t := s.advance 1
  .next (t.setFlags t.flagZ false false true)

/-- `CCF` (R154). -/
def execCcf (s : State) : Host.Outcome State Fault Refusal :=
  let t := s.advance 1
  .next (t.setFlags t.flagZ false false (!t.flagC))

end Sys2Proof.Machine
end

