-- ==== Sys2Proof/WellFormed.lean ====
section
/-! DEFINITION. Which terms of Instr are instructions. Two checks: the pair of operands that 0x76 would encode belongs to HALT
(spec/30_encoding.md R69), and the prefix byte alone is not an instruction (R68). -/

namespace Sys2Proof

/-- `LD (HL),(HL)` does not exist (R69, R100) and 0xCB is a prefix, not an instruction (R68); every other term is an instruction. -/
def Instr.wellFormed : Instr → Bool
  | .ldR8R8 .hlInd .hlInd => false
  | .prefixCb _ => false
  | _ => true

end Sys2Proof
end

