-- ==== Sys2Proof/Decode.lean ====
section
/-! DEFINITION. The decoder and the encoder, both written from spec/30_encoding.md: fields R61 and R62, operand tables R63, immediates
R64, opcode maps R65 and R66, undefined values R67, priority R69, lengths R70. -/

namespace Sys2Proof

open Sys2Proof.Machine

/-- The `r8` table of R63. -/
def R8.ofIdx (i : BitVec 3) : R8 :=
  match i.toNat with
  | 0 => .b
  | 1 => .c
  | 2 => .d
  | 3 => .e
  | 4 => .h
  | 5 => .l
  | 6 => .hlInd
  | _ => .a

/-- The index of an operand in the `r8` table of R63. -/
def R8.idx : R8 → BitVec 3
  | .b => 0
  | .c => 1
  | .d => 2
  | .e => 3
  | .h => 4
  | .l => 5
  | .hlInd => 6
  | .a => 7

/-- The `rr` table of R63. -/
def RR.ofIdx (i : BitVec 2) : RR :=
  match i.toNat with
  | 0 => .bc
  | 1 => .de
  | 2 => .hl
  | _ => .sp

/-- The index of a pair in the `rr` table of R63. -/
def RR.idx : RR → BitVec 2
  | .bc => 0
  | .de => 1
  | .hl => 2
  | .sp => 3

/-- The `rr_stk` table of R63. -/
def RStk.ofIdx (i : BitVec 2) : RStk :=
  match i.toNat with
  | 0 => .bc
  | 1 => .de
  | 2 => .hl
  | _ => .af

/-- The index of a pair in the `rr_stk` table of R63. -/
def RStk.idx : RStk → BitVec 2
  | .bc => 0
  | .de => 1
  | .hl => 2
  | .af => 3

/-- The `cc` table of R63. -/
def Cond.ofIdx (i : BitVec 2) : Cond :=
  match i.toNat with
  | 0 => .nz
  | 1 => .z
  | 2 => .nc
  | _ => .c

/-- The index of a condition in the `cc` table of R63. -/
def Cond.idx : Cond → BitVec 2
  | .nz => 0
  | .z => 1
  | .nc => 2
  | .c => 3

/-- `x = op[7:6]` (R61); of a secondary byte, the group (R62). -/
def opX (op : Byte) : BitVec 2 := op.extractLsb' 6 2

/-- `y = op[5:3]` (R61); of a secondary byte, the operation or the bit position (R62). -/
def opY (op : Byte) : BitVec 3 := op.extractLsb' 3 3

/-- `z = op[2:0]` (R61); of a secondary byte, the operand index (R62). -/
def opZ (op : Byte) : BitVec 3 := op.extractLsb' 0 3

/-- `p = op[5:4]` (R61). -/
def opP (op : Byte) : BitVec 2 := op.extractLsb' 4 2

/-- `q = op[3]` (R61). -/
def opQ (op : Byte) : Bool := op.getLsbD 3

/-- `cc = op[4:3]` (R61). -/
def opCc (op : Byte) : BitVec 2 := op.extractLsb' 3 2

/-- What each value of a secondary byte selects (R62, R66): one of the eleven rows of the 0xCB space, given its operands. The decoder
and the meaning of the table's prefix row (R82) both read the grid through it. -/
def cbSelect {α : Type} (rlc rrc rl rr sla sra swap srl : R8 → α) (bit res set : BitVec 3 → R8 → α) (op2 : Byte) : α :=
  let r := R8.ofIdx (opZ op2)
  match (opX op2).toNat with
  | 0 =>
    match (opY op2).toNat with
    | 0 => rlc r
    | 1 => rrc r
    | 2 => rl r
    | 3 => rr r
    | 4 => sla r
    | 5 => sra r
    | 6 => swap r
    | _ => srl r
  | 1 => bit (opY op2) r
  | 2 => res (opY op2) r
  | _ => set (opY op2) r

/-- The instruction a byte selects in the secondary space (R66); every byte selects one. -/
def decodeCb (op2 : Byte) : Instr :=
  cbSelect .rlc .rrc .rl .rr .sla .sra .swap .srl .bit .res .set op2

/-- The register form of the `alu` table of R63. -/
def decodeAluR8 (y : BitVec 3) (r : R8) : Instr :=
  match y.toNat with
  | 0 => .addAR8 r
  | 1 => .adcAR8 r
  | 2 => .subR8 r
  | 3 => .sbcAR8 r
  | 4 => .andR8 r
  | 5 => .xorR8 r
  | 6 => .orR8 r
  | _ => .cpR8 r

/-- The immediate form of the `alu` table of R63. -/
def decodeAluD8 (y : BitVec 3) (d8 : Byte) : Instr :=
  match y.toNat with
  | 0 => .addAD8 d8
  | 1 => .adcAD8 d8
  | 2 => .subD8 d8
  | 3 => .sbcAD8 d8
  | 4 => .andD8 d8
  | 5 => .xorD8 d8
  | 6 => .orD8 d8
  | _ => .cpD8 d8

/-- Opcodes 0x00 to 0x3F (R65). -/
def decodeX0 (op n1 n2 : Byte) : Instr :=
  match (opZ op).toNat with
  | 0 =>
    match (opY op).toNat with
    | 0 => .nop
    | 1 => .ldA16Sp (word n2 n1)
    | 2 => .stop n1
    | 3 => .jrE8 n1
    | _ => .jrCcE8 (Cond.ofIdx (opCc op)) n1
  | 1 => if opQ op then .addHlRr (RR.ofIdx (opP op)) else .ldRrD16 (RR.ofIdx (opP op)) (word n2 n1)
  | 2 =>
    match (opY op).toNat with
    | 0 => .ldBcIndA
    | 1 => .ldABcInd
    | 2 => .ldDeIndA
    | 3 => .ldADeInd
    | 4 => .ldHlIncA
    | 5 => .ldAHlInc
    | 6 => .ldHlDecA
    | _ => .ldAHlDec
  | 3 => if opQ op then .decRr (RR.ofIdx (opP op)) else .incRr (RR.ofIdx (opP op))
  | 4 => .incR8 (R8.ofIdx (opY op))
  | 5 => .decR8 (R8.ofIdx (opY op))
  | 6 => .ldR8D8 (R8.ofIdx (opY op)) n1
  | _ =>
    match (opY op).toNat with
    | 0 => .rlca
    | 1 => .rrca
    | 2 => .rla
    | 3 => .rra
    | 4 => .daa
    | 5 => .cpl
    | 6 => .scf
    | _ => .ccf

/-- Opcodes 0xC0 to 0xFF (R65), the eleven values of R67 and the prefix (R68) among them. -/
def decodeX3 (op n1 n2 : Byte) : Instr :=
  match (opZ op).toNat with
  | 0 =>
    match (opY op).toNat with
    | 4 => .ldhA8A n1
    | 5 => .addSpE8 n1
    | 6 => .ldhAA8 n1
    | 7 => .ldHlSpE8 n1
    | _ => .retCc (Cond.ofIdx (opCc op))
  | 1 =>
    match opQ op, (opP op).toNat with
    | false, _ => .popRr (RStk.ofIdx (opP op))
    | true, 0 => .ret
    | true, 1 => .reti
    | true, 2 => .jpHl
    | true, _ => .ldSpHl
  | 2 =>
    match (opY op).toNat with
    | 4 => .ldCIndA
    | 5 => .ldA16A (word n2 n1)
    | 6 => .ldACInd
    | 7 => .ldAA16 (word n2 n1)
    | _ => .jpCcA16 (Cond.ofIdx (opCc op)) (word n2 n1)
  | 3 =>
    match (opY op).toNat with
    | 0 => .jpA16 (word n2 n1)
    | 1 => decodeCb n1
    | 2 => .unimplD3
    | 3 => .unimplDB
    | 4 => .unimplE3
    | 5 => .unimplEB
    | 6 => .di
    | _ => .ei
  | 4 =>
    match (opY op).toNat with
    | 4 => .unimplE4
    | 5 => .unimplEC
    | 6 => .unimplF4
    | 7 => .unimplFC
    | _ => .callCcA16 (Cond.ofIdx (opCc op)) (word n2 n1)
  | 5 =>
    match opQ op, (opP op).toNat with
    | false, _ => .pushRr (RStk.ofIdx (opP op))
    | true, 0 => .callA16 (word n2 n1)
    | true, 1 => .unimplDD
    | true, 2 => .unimplED
    | true, _ => .unimplFD
  | 6 => decodeAluD8 (opY op) n1
  | _ => .rst (opY op)

/-- The instruction whose opcode byte is `op` and whose next two bytes are `n1` and `n2` (those past its length are not used).
Decoding is total (R83): HALT takes 0x76 before `LD r8,r8` (R69). -/
def decodeOp (op n1 n2 : Byte) : Instr :=
  match (opX op).toNat with
  | 0 => decodeX0 op n1 n2
  | 1 => if op = 0x76#8 then .halt else .ldR8R8 (R8.ofIdx (opY op)) (R8.ofIdx (opZ op))
  | 2 => decodeAluR8 (opY op) (R8.ofIdx (opZ op))
  | _ => decodeX3 op n1 n2

/-- The first bytes of the two-byte instructions (R70), the prefix among them. -/
def twoByteOps : List Byte :=
  [0xCB, 0x06, 0x0E, 0x16, 0x1E, 0x26, 0x2E, 0x36, 0x3E, 0x10, 0x18, 0x20, 0x28, 0x30, 0x38] ++
  [0xC6, 0xCE, 0xD6, 0xDE, 0xE6, 0xEE, 0xF6, 0xFE, 0xE0, 0xF0, 0xE8, 0xF8]

/-- The first bytes of the three-byte instructions (R70). -/
def threeByteOps : List Byte :=
  [0x01, 0x11, 0x21, 0x31, 0x08, 0xC2, 0xC3, 0xC4, 0xCA, 0xCC, 0xCD, 0xD2, 0xD4, 0xDA, 0xDC, 0xEA, 0xFA]

/-- The length of an instruction, told from its first byte alone (R70). -/
def lengthOf (op : Byte) : Nat :=
  if twoByteOps.contains op then 2 else if threeByteOps.contains op then 3 else 1

/-- Why a list of bytes is not an instruction: bytes are missing. (Every value of the bytes present is decoded, R83.) -/
inductive DecodeError where
  | noBytes                  -- the empty list
  | truncated (op : Byte)    -- fewer bytes than the length of `op` (R70)
  deriving DecidableEq, Repr

/-- The instruction at the head of a list of bytes, with the bytes after it; refused by name where bytes are missing. -/
def decode : List Byte → Except DecodeError (Instr × List Byte)
  | [] => .error .noBytes
  | op :: rest =>
    if rest.length + 1 < lengthOf op then .error (.truncated op)
    else .ok (decodeOp op (rest.getD 0 0) (rest.getD 1 0), rest.drop (lengthOf op - 1))

/-- The bytes of a word of spec/opcode_table.json, padded with zero operand bytes to the longest instruction. The table writes a
16-bit row with its first byte, 0xCB, in bits 15..8 (its match values 0xCB00 to 0xCBC0); any other word is read with its first byte in
bits 7..0 (DEDUCED, log entry 11). -/
def tableBytes (nbits w : Nat) : List Byte :=
  if nbits = 16 ∧ w / 256 % 256 = 0xCB then [0xCB, BitVec.ofNat 8 w, 0]
  else [BitVec.ofNat 8 w, BitVec.ofNat 8 (w / 256), BitVec.ofNat 8 (w / 65536)]

/-- What the decoder reads from a word of spec/opcode_table.json of `nbits` bits. -/
def decodeTableWord (nbits w : Nat) : Option Instr :=
  match decode (tableBytes nbits w) with
  | .ok (i, _) => some i
  | .error _ => none

/-! The encoder, from the encodings of R65, R66 and each instruction's rule. -/

/-- A byte made of the fields x, y and z of R61. -/
def opXyz (x : BitVec 2) (y z : BitVec 3) : Byte := x ++ y ++ z

/-- A byte made of x, a 2-bit index at bits 5..4 (p, R61) and the low nibble. -/
def opPair (x p : BitVec 2) (low : BitVec 4) : Byte := x ++ p ++ low

/-- A byte made of bits 7..5, the condition at bits 4..3 (cc, R61) and z. -/
def opCond (top : BitVec 3) (cc : BitVec 2) (z : BitVec 3) : Byte := top ++ cc ++ z

/-- An opcode followed by a 16-bit immediate, low byte first (R64). -/
def withWord (op : Byte) (v : Word) : List Byte := [op, loByte v, hiByte v]

/-- The bytes of an instruction, the opcode first. -/
def encode : Instr → List Byte
  | .nop => [0x00]
  | .ldRrD16 rr d16 => withWord (opPair 0 rr.idx 1) d16
  | .ldBcIndA => [0x02]
  | .ldDeIndA => [0x12]
  | .ldHlIncA => [0x22]
  | .ldHlDecA => [0x32]
  | .incRr rr => [opPair 0 rr.idx 3]
  | .incR8 dst => [opXyz 0 dst.idx 4]
  | .decR8 dst => [opXyz 0 dst.idx 5]
  | .ldR8D8 dst d8 => [opXyz 0 dst.idx 6, d8]
  | .rlca => [0x07]
  | .ldA16Sp a16 => withWord 0x08 a16
  | .addHlRr rr => [opPair 0 rr.idx 9]
  | .ldABcInd => [0x0A]
  | .ldADeInd => [0x1A]
  | .ldAHlInc => [0x2A]
  | .ldAHlDec => [0x3A]
  | .decRr rr => [opPair 0 rr.idx 11]
  | .rrca => [0x0F]
  | .stop x => [0x10, x]
  | .rla => [0x17]
  | .jrE8 e8 => [0x18, e8]
  | .rra => [0x1F]
  | .jrCcE8 cc e8 => [opCond 1 cc.idx 0, e8]
  | .daa => [0x27]
  | .cpl => [0x2F]
  | .scf => [0x37]
  | .ccf => [0x3F]
  | .ldR8R8 dst src => [opXyz 1 dst.idx src.idx]
  | .halt => [0x76]
  | .addAR8 r => [opXyz 2 0 r.idx]
  | .adcAR8 r => [opXyz 2 1 r.idx]
  | .subR8 r => [opXyz 2 2 r.idx]
  | .sbcAR8 r => [opXyz 2 3 r.idx]
  | .andR8 r => [opXyz 2 4 r.idx]
  | .xorR8 r => [opXyz 2 5 r.idx]
  | .orR8 r => [opXyz 2 6 r.idx]
  | .cpR8 r => [opXyz 2 7 r.idx]
  | .addAD8 d8 => [0xC6, d8]
  | .adcAD8 d8 => [0xCE, d8]
  | .subD8 d8 => [0xD6, d8]
  | .sbcAD8 d8 => [0xDE, d8]
  | .andD8 d8 => [0xE6, d8]
  | .xorD8 d8 => [0xEE, d8]
  | .orD8 d8 => [0xF6, d8]
  | .cpD8 d8 => [0xFE, d8]
  | .retCc cc => [opCond 6 cc.idx 0]
  | .popRr rr => [opPair 3 rr.idx 1]
  | .jpCcA16 cc a16 => withWord (opCond 6 cc.idx 2) a16
  | .jpA16 a16 => withWord 0xC3 a16
  | .callCcA16 cc a16 => withWord (opCond 6 cc.idx 4) a16
  | .pushRr rr => [opPair 3 rr.idx 5]
  | .rst t => [opXyz 3 t 7]
  | .ret => [0xC9]
  | .prefixCb op2 => [0xCB, op2]
  | .callA16 a16 => withWord 0xCD a16
  | .reti => [0xD9]
  | .ldhA8A a8 => [0xE0, a8]
  | .ldCIndA => [0xE2]
  | .addSpE8 e8 => [0xE8, e8]
  | .jpHl => [0xE9]
  | .ldA16A a16 => withWord 0xEA a16
  | .ldhAA8 a8 => [0xF0, a8]
  | .ldACInd => [0xF2]
  | .di => [0xF3]
  | .ldHlSpE8 e8 => [0xF8, e8]
  | .ldSpHl => [0xF9]
  | .ldAA16 a16 => withWord 0xFA a16
  | .ei => [0xFB]
  | .unimplD3 => [0xD3]
  | .unimplDB => [0xDB]
  | .unimplDD => [0xDD]
  | .unimplE3 => [0xE3]
  | .unimplE4 => [0xE4]
  | .unimplEB => [0xEB]
  | .unimplEC => [0xEC]
  | .unimplED => [0xED]
  | .unimplF4 => [0xF4]
  | .unimplFC => [0xFC]
  | .unimplFD => [0xFD]
  | .rlc r => [0xCB, opXyz 0 0 r.idx]
  | .rrc r => [0xCB, opXyz 0 1 r.idx]
  | .rl r => [0xCB, opXyz 0 2 r.idx]
  | .rr r => [0xCB, opXyz 0 3 r.idx]
  | .sla r => [0xCB, opXyz 0 4 r.idx]
  | .sra r => [0xCB, opXyz 0 5 r.idx]
  | .swap r => [0xCB, opXyz 0 6 r.idx]
  | .srl r => [0xCB, opXyz 0 7 r.idx]
  | .bit b r => [0xCB, opXyz 1 b r.idx]
  | .res b r => [0xCB, opXyz 2 b r.idx]
  | .set b r => [0xCB, opXyz 3 b r.idx]

/-- The length of an instruction in bytes (R60, R70). -/
def Instr.length (i : Instr) : Nat := (encode i).length

end Sys2Proof
end

