-- ==== Sys2Proof/Machine/Cb.lean ====
section
/-! DEFINITION. The 0xCB space, spec/48_cb_prefix.md R211–R221, and the prefix row (spec/40_dispatch.md R82). -/

namespace Sys2Proof.Machine

/-- `RLC r8` (R211). -/
def execRlc (r : R8) (s : State) : Host.Outcome State Fault Refusal :=
  let t := s.advance 2
  .next ((t.afterGet8 r).writeShift r (rotLeft (t.get8 r)))

/-- `RRC r8` (R212). -/
def execRrc (r : R8) (s : State) : Host.Outcome State Fault Refusal :=
  let t := s.advance 2
  .next ((t.afterGet8 r).writeShift r (rotRight (t.get8 r)))

/-- `RL r8` (R213). -/
def execRl (r : R8) (s : State) : Host.Outcome State Fault Refusal :=
  let t := s.advance 2
  .next ((t.afterGet8 r).writeShift r (rotLeftC (t.get8 r) t.flagC))

/-- `RR r8` (R214). -/
def execRr (r : R8) (s : State) : Host.Outcome State Fault Refusal :=
  let t := s.advance 2
  .next ((t.afterGet8 r).writeShift r (rotRightC (t.get8 r) t.flagC))

/-- `SLA r8` (R215). -/
def execSla (r : R8) (s : State) : Host.Outcome State Fault Refusal :=
  let t := s.advance 2
  .next ((t.afterGet8 r).writeShift r (shiftLeft (t.get8 r)))

/-- `SRA r8` (R216). -/
def execSra (r : R8) (s : State) : Host.Outcome State Fault Refusal :=
  let t := s.advance 2
  .next ((t.afterGet8 r).writeShift r (shiftRightA (t.get8 r)))

/-- `SWAP r8` (R217). -/
def execSwap (r : R8) (s : State) : Host.Outcome State Fault Refusal :=
  let t := s.advance 2
  .next ((t.afterGet8 r).writeShift r (swapNibbles (t.get8 r)))

/-- `SRL r8` (R218). -/
def execSrl (r : R8) (s : State) : Host.Outcome State Fault Refusal :=
  let t := s.advance 2
  .next ((t.afterGet8 r).writeShift r (shiftRightL (t.get8 r)))

/-- `BIT b,r8` (R219). -/
def execBit (b : BitVec 3) (r : R8) (s : State) : Host.Outcome State Fault Refusal :=
  let t := s.advance 2
  .next ((t.afterGet8 r).setFlags (!(t.get8 r).getLsbD b.toNat) false true t.flagC)

/-- `RES b,r8` (R220). -/
def execRes (b : BitVec 3) (r : R8) (s : State) : Host.Outcome State Fault Refusal :=
  let t := s.advance 2
  .next ((t.afterGet8 r).set8 r (t.get8 r &&& ~~~bitMask b))

/-- `SET b,r8` (R221). -/
def execSet (b : BitVec 3) (r : R8) (s : State) : Host.Outcome State Fault Refusal :=
  let t := s.advance 2
  .next ((t.afterGet8 r).set8 r (t.get8 r ||| bitMask b))

/-- `PREFIX CB` (R82): the row of the secondary space that the second byte selects, as R66 lays it out. -/
def execPrefixCb (op2 : Byte) (s : State) : Host.Outcome State Fault Refusal :=
  cbSelect (execRlc · s) (execRrc · s) (execRl · s) (execRr · s) (execSla · s) (execSra · s) (execSwap · s) (execSrl · s)
    (execBit · · s) (execRes · · s) (execSet · · s) op2

end Sys2Proof.Machine
end

