-- ==== Sys2Proof/Machine/Control.lean ====
section
/-! DEFINITION. Control transfer, spec/45_control.md R172–R182. PC is already past the instruction when a target or a return address is taken. -/

namespace Sys2Proof.Machine

/-- `JP a16` (R172). -/
def execJpA16 (a16 : Word) (s : State) : Host.Outcome State Fault Refusal :=
  .next ((s.advance 3).jump a16)

/-- `JP cc,a16` (R173). -/
def execJpCcA16 (cc : Cond) (a16 : Word) (s : State) : Host.Outcome State Fault Refusal :=
  let t := s.advance 3
  .next (if t.cond cc then t.jump a16 else t)

/-- `JP (HL)` (R174). -/
def execJpHl (s : State) : Host.Outcome State Fault Refusal :=
  let t := s.advance 1
  .next (t.jump t.pairHL)

/-- `JR e8` (R175). -/
def execJrE8 (e8 : Byte) (s : State) : Host.Outcome State Fault Refusal :=
  let t := s.advance 2
  .next (t.jump (t.pc + sext16 e8))

/-- `JR cc,e8` (R176). -/
def execJrCcE8 (cc : Cond) (e8 : Byte) (s : State) : Host.Outcome State Fault Refusal :=
  let t := s.advance 2
  .next (if t.cond cc then t.jump (t.pc + sext16 e8) else t)

/-- `CALL a16` (R177). -/
def execCallA16 (a16 : Word) (s : State) : Host.Outcome State Fault Refusal :=
  let t := s.advance 3
  .next ((t.push16 t.pc).jump a16)

/-- `CALL cc,a16` (R178). -/
def execCallCcA16 (cc : Cond) (a16 : Word) (s : State) : Host.Outcome State Fault Refusal :=
  let t := s.advance 3
  .next (if t.cond cc then (t.push16 t.pc).jump a16 else t)

/-- `RET` (R179). -/
def execRet (s : State) : Host.Outcome State Fault Refusal :=
  let t := s.advance 1
  .next (t.drop16.jump t.top16)

/-- `RET cc` (R180). -/
def execRetCc (cc : Cond) (s : State) : Host.Outcome State Fault Refusal :=
  let t := s.advance 1
  .next (if t.cond cc then t.drop16.jump t.top16 else t)

/-- `RETI` (R181). -/
def execReti (s : State) : Host.Outcome State Fault Refusal :=
  let t := s.advance 1
  .next ((t.drop16.jump t.top16).setIme true)

/-- `RST t` (R182). -/
def execRst (t : BitVec 3) (s : State) : Host.Outcome State Fault Refusal :=
  let u := s.advance 1
  .next ((u.push16 u.pc).jump (t.setWidth 16 <<< 3))

end Sys2Proof.Machine
end

