-- ==== Sys2Proof/Machine/Load16.lean ====
section
/-! DEFINITION. 16-bit loads, spec/42_load16.md R120–R123. -/

namespace Sys2Proof.Machine

/-- `LD rr,d16` (R120). -/
def execLdRrD16 (rr : RR) (d16 : Word) (s : State) : Host.Outcome State Fault Refusal :=
  .next ((s.advance 3).set16 rr d16)

/-- `LD (a16),SP` (R121). -/
def execLdA16Sp (a16 : Word) (s : State) : Host.Outcome State Fault Refusal :=
  let t := s.advance 3
  .next (t.write16 a16 t.sp)

/-- `LD SP,HL` (R122). -/
def execLdSpHl (s : State) : Host.Outcome State Fault Refusal :=
  let t := s.advance 1
  .next (t.setSp t.pairHL)

/-- `LD HL,SP+e8` (R123). -/
def execLdHlSpE8 (e8 : Byte) (s : State) : Host.Outcome State Fault Refusal :=
  let t := s.advance 2
  let r := spAddE8 t.sp e8
  .next ((t.setHL r.res).setFlags false false r.h r.c)

end Sys2Proof.Machine
end

