-- ==== Sys2Proof/Machine/Load8.lean ====
section
/-! DEFINITION. 8-bit loads, spec/41_load8.md R100–R115. No flag is written. -/

namespace Sys2Proof.Machine

/-- `LD r8,r8` (R100). -/
def execLdR8R8 (dst src : R8) (s : State) : Host.Outcome State Fault Refusal :=
  let t := s.advance 1
  .next ((t.afterGet8 src).set8 dst (t.get8 src))

/-- `LD r8,d8` (R101). -/
def execLdR8D8 (dst : R8) (d8 : Byte) (s : State) : Host.Outcome State Fault Refusal :=
  .next ((s.advance 2).set8 dst d8)

/-- `LD (BC),A` (R102). -/
def execLdBcIndA (s : State) : Host.Outcome State Fault Refusal :=
  let t := s.advance 1
  .next (t.write t.pairBC t.a)

/-- `LD (DE),A` (R103). -/
def execLdDeIndA (s : State) : Host.Outcome State Fault Refusal :=
  let t := s.advance 1
  .next (t.write t.pairDE t.a)

/-- `LD A,(BC)` (R104). -/
def execLdABcInd (s : State) : Host.Outcome State Fault Refusal :=
  let t := s.advance 1
  .next ((t.afterRead t.pairBC).setA (t.read t.pairBC))

/-- `LD A,(DE)` (R105). -/
def execLdADeInd (s : State) : Host.Outcome State Fault Refusal :=
  let t := s.advance 1
  .next ((t.afterRead t.pairDE).setA (t.read t.pairDE))

/-- `LD (HL+),A` (R106). -/
def execLdHlIncA (s : State) : Host.Outcome State Fault Refusal :=
  let t := s.advance 1
  .next ((t.write t.pairHL t.a).setHL (t.pairHL + 1))

/-- `LD (HL-),A` (R107). -/
def execLdHlDecA (s : State) : Host.Outcome State Fault Refusal :=
  let t := s.advance 1
  .next ((t.write t.pairHL t.a).setHL (t.pairHL - 1))

/-- `LD A,(HL+)` (R108). -/
def execLdAHlInc (s : State) : Host.Outcome State Fault Refusal :=
  let t := s.advance 1
  .next (((t.afterRead t.pairHL).setA (t.read t.pairHL)).setHL (t.pairHL + 1))

/-- `LD A,(HL-)` (R109). -/
def execLdAHlDec (s : State) : Host.Outcome State Fault Refusal :=
  let t := s.advance 1
  .next (((t.afterRead t.pairHL).setA (t.read t.pairHL)).setHL (t.pairHL - 1))

/-- `LDH (a8),A` (R110). -/
def execLdhA8A (a8 : Byte) (s : State) : Host.Outcome State Fault Refusal :=
  let t := s.advance 2
  .next (t.write (hiAddr a8) t.a)

/-- `LDH A,(a8)` (R111). -/
def execLdhAA8 (a8 : Byte) (s : State) : Host.Outcome State Fault Refusal :=
  let t := s.advance 2
  .next ((t.afterRead (hiAddr a8)).setA (t.read (hiAddr a8)))

/-- `LD (C),A` (R112). -/
def execLdCIndA (s : State) : Host.Outcome State Fault Refusal :=
  let t := s.advance 1
  .next (t.write (hiAddr t.c) t.a)

/-- `LD A,(C)` (R113). -/
def execLdACInd (s : State) : Host.Outcome State Fault Refusal :=
  let t := s.advance 1
  .next ((t.afterRead (hiAddr t.c)).setA (t.read (hiAddr t.c)))

/-- `LD (a16),A` (R114). -/
def execLdA16A (a16 : Word) (s : State) : Host.Outcome State Fault Refusal :=
  let t := s.advance 3
  .next (t.write a16 t.a)

/-- `LD A,(a16)` (R115). -/
def execLdAA16 (a16 : Word) (s : State) : Host.Outcome State Fault Refusal :=
  let t := s.advance 3
  .next ((t.afterRead a16).setA (t.read a16))

end Sys2Proof.Machine
end

