-- ==== Sys2Proof/Machine/Misc.lean ====
section
/-! DEFINITION. NOP, HALT, STOP, DI, EI and the accumulator rotates, spec/47_misc.md R195–R203. -/

namespace Sys2Proof.Machine

/-- `NOP` (R195). -/
def execNop (s : State) : Host.Outcome State Fault Refusal :=
  .next (s.advance 1)

/-- `HALT` (R196): HALTED, or the fault of R230 when P_HALT is HALT_FAULTS. -/
def execHalt (s : State) : Host.Outcome State Fault Refusal :=
  match s.params.pHalt with
  | .haltStops => .next ((s.advance 1).enter .halted)
  | .haltFaults => .next (s.raiseUnimplemented 0x76#8)

/-- `STOP` (R197): the second byte fetched and ignored, STOPPED; or, when P_STOP is STOP_FAULTS, the fault of R230 after
the one-byte fetch. -/
def execStop (_x : Byte) (s : State) : Host.Outcome State Fault Refusal :=
  match s.params.pStop with
  | .stopStops => .next ((s.advance 2).enter .stopped)
  | .stopFaults => .next (s.raiseUnimplemented 0x10#8)

/-- `DI` (R198). -/
def execDi (s : State) : Host.Outcome State Fault Refusal :=
  .next ((s.advance 1).setIme false)

/-- `EI` (R199). -/
def execEi (s : State) : Host.Outcome State Fault Refusal :=
  .next ((s.advance 1).setIme true)

/-- `RLCA` (R200). -/
def execRlca (s : State) : Host.Outcome State Fault Refusal :=
  let t := s.advance 1
  .next (t.accRotate (rotLeft t.a))

/-- `RRCA` (R201). -/
def execRrca (s : State) : Host.Outcome State Fault Refusal :=
  let t := s.advance 1
  .next (t.accRotate (rotRight t.a))

/-- `RLA` (R202). -/
def execRla (s : State) : Host.Outcome State Fault Refusal :=
  let t := s.advance 1
  .next (t.accRotate (rotLeftC t.a t.flagC))

/-- `RRA` (R203). -/
def execRra (s : State) : Host.Outcome State Fault Refusal :=
  let t := s.advance 1
  .next (t.accRotate (rotRightC t.a t.flagC))

end Sys2Proof.Machine
end

