-- ==== Sys2Proof/Machine/Stack.lean ====
section
/-! DEFINITION. Stack push and pop, spec/46_stack.md R190 and R191. -/

namespace Sys2Proof.Machine

/-- `PUSH rr` (R190). -/
def execPushRr (rr : RStk) (s : State) : Host.Outcome State Fault Refusal :=
  let t := s.advance 1
  .next (t.push16 (t.get16stk rr))

/-- `POP rr` (R191). -/
def execPopRr (rr : RStk) (s : State) : Host.Outcome State Fault Refusal :=
  let t := s.advance 1
  .next (t.drop16.set16stk rr t.top16)

end Sys2Proof.Machine
end

