-- ==== Sys2Proof/Machine/Undefined.lean ====
section
/-! DEFINITION. The eleven opcodes with no defined operation (spec/30_encoding.md R67): each takes the fatal fault of spec/60_exceptions.md R230. -/

namespace Sys2Proof.Machine

/-- Opcode 0xD3 (R67): UnimplementedOpcode (R230). -/
def execUnimplD3 (s : State) : Host.Outcome State Fault Refusal :=
  .next (s.raiseUnimplemented 0xD3#8)

/-- Opcode 0xDB (R67): UnimplementedOpcode (R230). -/
def execUnimplDB (s : State) : Host.Outcome State Fault Refusal :=
  .next (s.raiseUnimplemented 0xDB#8)

/-- Opcode 0xDD (R67): UnimplementedOpcode (R230). -/
def execUnimplDD (s : State) : Host.Outcome State Fault Refusal :=
  .next (s.raiseUnimplemented 0xDD#8)

/-- Opcode 0xE3 (R67): UnimplementedOpcode (R230). -/
def execUnimplE3 (s : State) : Host.Outcome State Fault Refusal :=
  .next (s.raiseUnimplemented 0xE3#8)

/-- Opcode 0xE4 (R67): UnimplementedOpcode (R230). -/
def execUnimplE4 (s : State) : Host.Outcome State Fault Refusal :=
  .next (s.raiseUnimplemented 0xE4#8)

/-- Opcode 0xEB (R67): UnimplementedOpcode (R230). -/
def execUnimplEB (s : State) : Host.Outcome State Fault Refusal :=
  .next (s.raiseUnimplemented 0xEB#8)

/-- Opcode 0xEC (R67): UnimplementedOpcode (R230). -/
def execUnimplEC (s : State) : Host.Outcome State Fault Refusal :=
  .next (s.raiseUnimplemented 0xEC#8)

/-- Opcode 0xED (R67): UnimplementedOpcode (R230). -/
def execUnimplED (s : State) : Host.Outcome State Fault Refusal :=
  .next (s.raiseUnimplemented 0xED#8)

/-- Opcode 0xF4 (R67): UnimplementedOpcode (R230). -/
def execUnimplF4 (s : State) : Host.Outcome State Fault Refusal :=
  .next (s.raiseUnimplemented 0xF4#8)

/-- Opcode 0xFC (R67): UnimplementedOpcode (R230). -/
def execUnimplFC (s : State) : Host.Outcome State Fault Refusal :=
  .next (s.raiseUnimplemented 0xFC#8)

/-- Opcode 0xFD (R67): UnimplementedOpcode (R230). -/
def execUnimplFD (s : State) : Host.Outcome State Fault Refusal :=
  .next (s.raiseUnimplemented 0xFD#8)

end Sys2Proof.Machine
end

