-- ==== Sys2Proof/Machine/Dispatch.lean ====
section
/-! DEFINITION. One arm per instruction: the call of its meaning. -/

namespace Sys2Proof.Machine

/-- The effect of one instruction, its bytes fetched, on a state whose PC holds the address of its first byte (spec/40_dispatch.md R80, R92). -/
def exec (i : Instr) (s : State) : Host.Outcome State Fault Refusal :=
  match i with
  | .nop => Sys2Proof.Machine.execNop s
  | .ldRrD16 rr d16 => Sys2Proof.Machine.execLdRrD16 rr d16 s
  | .ldBcIndA => Sys2Proof.Machine.execLdBcIndA s
  | .ldDeIndA => Sys2Proof.Machine.execLdDeIndA s
  | .ldHlIncA => Sys2Proof.Machine.execLdHlIncA s
  | .ldHlDecA => Sys2Proof.Machine.execLdHlDecA s
  | .incRr rr => Sys2Proof.Machine.execIncRr rr s
  | .incR8 dst => Sys2Proof.Machine.execIncR8 dst s
  | .decR8 dst => Sys2Proof.Machine.execDecR8 dst s
  | .ldR8D8 dst d8 => Sys2Proof.Machine.execLdR8D8 dst d8 s
  | .rlca => Sys2Proof.Machine.execRlca s
  | .ldA16Sp a16 => Sys2Proof.Machine.execLdA16Sp a16 s
  | .addHlRr rr => Sys2Proof.Machine.execAddHlRr rr s
  | .ldABcInd => Sys2Proof.Machine.execLdABcInd s
  | .ldADeInd => Sys2Proof.Machine.execLdADeInd s
  | .ldAHlInc => Sys2Proof.Machine.execLdAHlInc s
  | .ldAHlDec => Sys2Proof.Machine.execLdAHlDec s
  | .decRr rr => Sys2Proof.Machine.execDecRr rr s
  | .rrca => Sys2Proof.Machine.execRrca s
  | .stop x => Sys2Proof.Machine.execStop x s
  | .rla => Sys2Proof.Machine.execRla s
  | .jrE8 e8 => Sys2Proof.Machine.execJrE8 e8 s
  | .rra => Sys2Proof.Machine.execRra s
  | .jrCcE8 cc e8 => Sys2Proof.Machine.execJrCcE8 cc e8 s
  | .daa => Sys2Proof.Machine.execDaa s
  | .cpl => Sys2Proof.Machine.execCpl s
  | .scf => Sys2Proof.Machine.execScf s
  | .ccf => Sys2Proof.Machine.execCcf s
  | .ldR8R8 dst src => Sys2Proof.Machine.execLdR8R8 dst src s
  | .halt => Sys2Proof.Machine.execHalt s
  | .addAR8 r => Sys2Proof.Machine.execAddAR8 r s
  | .adcAR8 r => Sys2Proof.Machine.execAdcAR8 r s
  | .subR8 r => Sys2Proof.Machine.execSubR8 r s
  | .sbcAR8 r => Sys2Proof.Machine.execSbcAR8 r s
  | .andR8 r => Sys2Proof.Machine.execAndR8 r s
  | .xorR8 r => Sys2Proof.Machine.execXorR8 r s
  | .orR8 r => Sys2Proof.Machine.execOrR8 r s
  | .cpR8 r => Sys2Proof.Machine.execCpR8 r s
  | .addAD8 d8 => Sys2Proof.Machine.execAddAD8 d8 s
  | .adcAD8 d8 => Sys2Proof.Machine.execAdcAD8 d8 s
  | .subD8 d8 => Sys2Proof.Machine.execSubD8 d8 s
  | .sbcAD8 d8 => Sys2Proof.Machine.execSbcAD8 d8 s
  | .andD8 d8 => Sys2Proof.Machine.execAndD8 d8 s
  | .xorD8 d8 => Sys2Proof.Machine.execXorD8 d8 s
  | .orD8 d8 => Sys2Proof.Machine.execOrD8 d8 s
  | .cpD8 d8 => Sys2Proof.Machine.execCpD8 d8 s
  | .retCc cc => Sys2Proof.Machine.execRetCc cc s
  | .popRr rr => Sys2Proof.Machine.execPopRr rr s
  | .jpCcA16 cc a16 => Sys2Proof.Machine.execJpCcA16 cc a16 s
  | .jpA16 a16 => Sys2Proof.Machine.execJpA16 a16 s
  | .callCcA16 cc a16 => Sys2Proof.Machine.execCallCcA16 cc a16 s
  | .pushRr rr => Sys2Proof.Machine.execPushRr rr s
  | .rst t => Sys2Proof.Machine.execRst t s
  | .ret => Sys2Proof.Machine.execRet s
  | .prefixCb op2 => Sys2Proof.Machine.execPrefixCb op2 s
  | .callA16 a16 => Sys2Proof.Machine.execCallA16 a16 s
  | .reti => Sys2Proof.Machine.execReti s
  | .ldhA8A a8 => Sys2Proof.Machine.execLdhA8A a8 s
  | .ldCIndA => Sys2Proof.Machine.execLdCIndA s
  | .addSpE8 e8 => Sys2Proof.Machine.execAddSpE8 e8 s
  | .jpHl => Sys2Proof.Machine.execJpHl s
  | .ldA16A a16 => Sys2Proof.Machine.execLdA16A a16 s
  | .ldhAA8 a8 => Sys2Proof.Machine.execLdhAA8 a8 s
  | .ldACInd => Sys2Proof.Machine.execLdACInd s
  | .di => Sys2Proof.Machine.execDi s
  | .ldHlSpE8 e8 => Sys2Proof.Machine.execLdHlSpE8 e8 s
  | .ldSpHl => Sys2Proof.Machine.execLdSpHl s
  | .ldAA16 a16 => Sys2Proof.Machine.execLdAA16 a16 s
  | .ei => Sys2Proof.Machine.execEi s
  | .unimplD3 => Sys2Proof.Machine.execUnimplD3 s
  | .unimplDB => Sys2Proof.Machine.execUnimplDB s
  | .unimplDD => Sys2Proof.Machine.execUnimplDD s
  | .unimplE3 => Sys2Proof.Machine.execUnimplE3 s
  | .unimplE4 => Sys2Proof.Machine.execUnimplE4 s
  | .unimplEB => Sys2Proof.Machine.execUnimplEB s
  | .unimplEC => Sys2Proof.Machine.execUnimplEC s
  | .unimplED => Sys2Proof.Machine.execUnimplED s
  | .unimplF4 => Sys2Proof.Machine.execUnimplF4 s
  | .unimplFC => Sys2Proof.Machine.execUnimplFC s
  | .unimplFD => Sys2Proof.Machine.execUnimplFD s
  | .rlc r => Sys2Proof.Machine.execRlc r s
  | .rrc r => Sys2Proof.Machine.execRrc r s
  | .rl r => Sys2Proof.Machine.execRl r s
  | .rr r => Sys2Proof.Machine.execRr r s
  | .sla r => Sys2Proof.Machine.execSla r s
  | .sra r => Sys2Proof.Machine.execSra r s
  | .swap r => Sys2Proof.Machine.execSwap r s
  | .srl r => Sys2Proof.Machine.execSrl r s
  | .bit b r => Sys2Proof.Machine.execBit b r s
  | .res b r => Sys2Proof.Machine.execRes b r s
  | .set b r => Sys2Proof.Machine.execSet b r s

end Sys2Proof.Machine
end

