-- ==== Sys2Proof/Machine/Fetch.lean ====
section
/-! DEFINITION. Fetching an instruction at PC (spec/40_dispatch.md R80–R83), and placing one there from outside. -/

namespace Sys2Proof.Machine

/-- The instruction at PC: its opcode and the bytes after it, read in address order through the same bus as data (R81, R58), each as the
reads before it leave the bus, and decoded. The decoder looks at no byte past the instruction's length, and the step reads none: see
`State.afterFetch` (log entry 8). -/
def State.fetchInstr (s : State) : Instr :=
  decodeOp (s.read s.pc) ((s.afterRead s.pc).read (s.pc + 1)) (((s.afterRead s.pc).afterRead (s.pc + 1)).read (s.pc + 2))

/-- How many bytes the step fetches: the instruction's length (R70, R80–R82, R88), but the opcode alone of a STOP that faults (R197). -/
def State.fetchLength (s : State) : Nat :=
  if s.read s.pc = 0x10#8 ∧ s.params.pStop = .stopFaults then 1 else lengthOf (s.read s.pc)

/-- What the fetch leaves: every byte of the instruction has been read, in address order, before its data accesses (R57). PC is not moved
yet; each meaning moves it past the bytes fetched. -/
def State.afterFetch (s : State) : State := s.afterReads s.pc s.fetchLength

/-- Memory with a list of bytes loaded from an address on, in address order. -/
def Memory.loadBytes (m : Memory) (x : Word) : List Byte → Memory
  | [] => m
  | v :: rest => (m.load x v).loadBytes (x + 1) rest

/-- The three bytes from an address on are all storage; a supplied bus is asked at every address. -/
def Memory.holdsInstr (m : Memory) (x : Word) : Bool :=
  match m.bus with
  | .supplied _ => true
  | bus => (busRegion bus x).backed && (busRegion bus (x + 1)).backed && (busRegion bus (x + 2)).backed

/-- An instruction's bytes placed by the host where the next step fetches (R241, D19): RUNNING, PC as it is if the bytes there are
storage, else at 0xC100 in WRAM, since under `RefMap` no byte can be placed at the reset PC 0x0100 (R251; log entry 10). -/
def State.placeInstr (s : State) (bytes : List Byte) : State :=
  let pc := if s.mem.holdsInstr s.pc then s.pc else 0xC100#16
  { s with run := .running, faultRec := none, pc := pc, mem := s.mem.loadBytes pc bytes }

end Sys2Proof.Machine
end

