-- ==== Sys2Proof/Machine/Step.lean ====
section
/-! DEFINITION. The one transition of the core (spec/40_dispatch.md R80). -/

namespace Sys2Proof.Machine

/-- R80: in RUNNING, the instruction at PC is fetched and executed; in HALTED, STOPPED and FAULTED the state does not change (R29). -/
def step (s : State) : Host.Outcome State Fault Refusal :=
  match s.run with
  | .running => exec s.fetchInstr s.afterFetch
  | .halted => .next s
  | .stopped => .next s
  | .faulted => .next s

/-- The state with a word of spec/opcode_table.json placed where `step` fetches its next instruction (log entries 10 and 11). -/
def State.withFetchWord (s : State) (nbits w : Nat) : State := s.placeInstr (tableBytes nbits w)

end Sys2Proof.Machine
end

