-- ==== Sys2Proof/Safety.lean ====
section
/-! DEFINITION. The terms claims are stated in: the invariant of the machine, what a transition keeps, how a store looks through reads of
one byte, and when bytes encode an instruction. -/

namespace Sys2Proof.Safety

open Sys2Proof Sys2Proof.Machine

/-- The pieces of the state, for frames. `memory` is compared byte by byte through reads and, on a supplied bus, by the whole of its
state; `params` is P_HALT, P_STOP and the bus. -/
inductive Part where
  | a | f | b | c | d | e | h | l | sp | pc | ime | run | faultRec | memory | params
  deriving DecidableEq, Repr

/-- A piece of the state is the same after as before. -/
def Part.Same (s t : State) : Part → Prop
  | .a => t.a = s.a
  | .f => t.f = s.f
  | .b => t.b = s.b
  | .c => t.c = s.c
  | .d => t.d = s.d
  | .e => t.e = s.e
  | .h => t.h = s.h
  | .l => t.l = s.l
  | .sp => t.sp = s.sp
  | .pc => t.pc = s.pc
  | .ime => t.ime = s.ime
  | .run => t.run = s.run
  | .faultRec => t.faultRec = s.faultRec
  | .memory => (∀ x, t.read x = s.read x) ∧ ∀ k, s.mem.bus = .supplied k → t.mem = s.mem
  | .params => t.params = s.params ∧ t.mem.bus = s.mem.bus

/-- Every piece of the state not listed is the same after as before. -/
def KeepsExcept (changed : List Part) (s t : State) : Prop := ∀ p, p ∉ changed → p.Same s t

/-- Whether a write is known to reach storage at an address, in the words of R43, R44 and R48 for `RefMap` and of R40 for `FlatRAM`; of
a supplied bus nothing is known. -/
def storesAt (bus : BusKind) (x : Word) : Bool :=
  match bus with
  | .supplied _ => false
  | .flatRam => true
  | .refMap => decide (0xC000 ≤ x.toNat ∧ x.toNat ≤ 0xDFFF ∨ 0xFF80 ≤ x.toNat ∧ x.toNat ≤ 0xFFFE)

/-- After one byte write at `x`, every byte of memory reads as before but for `x`, which reads the byte written if a write reaches it. On
a supplied bus, its state is what one write at `x` makes of it (R40). -/
def StoresByte (s t : State) (x : Word) (v : Byte) : Prop :=
  match s.mem.bus with
  | .supplied k => t.mem.cells = Config.busWrite k s.mem.cells x v
  | bus => ∀ y, t.read y = if y = x ∧ storesAt bus x = true then v else s.read y

/-- After `write16` at `x` (R41): the low byte at `x`, the high byte at the next address, each if a write reaches it; every other byte of
memory reads as before. On a supplied bus, its state is what those two writes make of it, the low byte's first (R41, R57). -/
def StoresWord (s t : State) (x v : Word) : Prop :=
  match s.mem.bus with
  | .supplied k => t.mem.cells = Config.busWrite k (Config.busWrite k s.mem.cells x (loByte v)) (x + 1) (hiByte v)
  | bus => ∀ y, t.read y =
      if y = x ∧ storesAt bus x = true then loByte v
      else if y = x + 1 ∧ storesAt bus (x + 1) = true then hiByte v
      else s.read y

/-- The piece of state an 8-bit operand lies in. -/
def r8Part : R8 → Part
  | .b => .b
  | .c => .c
  | .d => .d
  | .e => .e
  | .h => .h
  | .l => .l
  | .hlInd => .memory
  | .a => .a

/-- The registers of a pair of the `rr` table. -/
def rrParts : RR → List Part
  | .bc => [.b, .c]
  | .de => [.d, .e]
  | .hl => [.h, .l]
  | .sp => [.sp]

/-- The registers of a pair of the `rr_stk` table. -/
def rstkParts : RStk → List Part
  | .bc => [.b, .c]
  | .de => [.d, .e]
  | .hl => [.h, .l]
  | .af => [.a, .f]

/-- `dst` takes the byte `v`, by a store at the old HL for `(HL)`, and of the other pieces of the state only those listed change. -/
def WritesR8 (dst : R8) (v : Byte) (also : List Part) (s t : State) : Prop :=
  KeepsExcept (r8Part dst :: also) s t ∧
  (if dst = .hlInd then StoresByte s t s.pairHL v else t.get8 dst = v)

/-- `rr` takes the word `v`, and of the other pieces of the state only those listed change. -/
def WritesRR (rr : RR) (v : Word) (also : List Part) (s t : State) : Prop :=
  KeepsExcept (rrParts rr ++ also) s t ∧ t.get16 rr = v

/-- F holds these four flags and bits 3..0 are zero (R14, R24). -/
def FlagsAre (t : State) (z n h c : Bool) : Prop :=
  t.flagZ = z ∧ t.flagN = n ∧ t.flagH = h ∧ t.flagC = c ∧ t.f &&& 0x0F#8 = 0

/-- The bytes are the encoding of the instruction: whatever follows them, they decode to it and nothing more is consumed. -/
def Decodes (bytes : List Byte) (i : Instr) : Prop := ∀ rest, decode (bytes ++ rest) = .ok (i, rest)

/-- An opcode with one 3-bit field at bits 5..3. -/
def withY (base : Byte) (y : BitVec 3) : Byte := base ||| y.setWidth 8 <<< 3

/-- An opcode with one 3-bit field at bits 2..0. -/
def withZ (base : Byte) (z : BitVec 3) : Byte := base ||| z.setWidth 8

/-- An opcode with a 2-bit pair index at bits 5..4. -/
def withP (base : Byte) (p : BitVec 2) : Byte := base ||| p.setWidth 8 <<< 4

/-- An opcode with a 2-bit condition at bits 4..3. -/
def withCc (base : Byte) (cc : BitVec 2) : Byte := base ||| cc.setWidth 8 <<< 3

/-- The eleven opcodes with no defined operation (R67), each with its table row. -/
def undefinedRows : List (Instr × Byte) :=
  [(.unimplD3, 0xD3), (.unimplDB, 0xDB), (.unimplDD, 0xDD), (.unimplE3, 0xE3), (.unimplE4, 0xE4), (.unimplEB, 0xEB),
   (.unimplEC, 0xEC), (.unimplED, 0xED), (.unimplF4, 0xF4), (.unimplFC, 0xFC), (.unimplFD, 0xFD)]

/-- The opcode raises UnimplementedOpcode under these parameters (R67, R196, R197). -/
def opcodeFaults (params : Params) (op : Byte) : Prop :=
  op ∈ undefinedRows.map (·.2) ∨ (op = 0x76#8 ∧ params.pHalt = .haltFaults) ∨ (op = 0x10#8 ∧ params.pStop = .stopFaults)

/-- The invariant of the machine: bits 3..0 of F are zero (R23), memory is in its canonical form, and there is a fault record exactly
while FAULTED (R30), of an opcode that faults. -/
structure Inv (s : State) : Prop where
  lowNibble : s.f &&& 0x0F#8 = 0
  memory : s.mem.wf = true
  record : s.faultRec.isSome = true ↔ s.run = .faulted
  opcode : ∀ r, s.faultRec = some r → opcodeFaults s.params r.opcode

/-- Whether the condition of a conditional instruction holds, in the words of R90: Z is bit 7 of F and C is bit 4 (R24). -/
def taken (s : State) : Cond → Bool
  | .nz => s.f &&& 0x80#8 == 0
  | .z => s.f &&& 0x80#8 != 0
  | .nc => s.f &&& 0x10#8 == 0
  | .c => s.f &&& 0x10#8 != 0

/-- Byte `i` of the boot image, of the triple that R43 makes the bus state. -/
def bootByte (m : Memory) (i : Nat) : Byte := (cellsGet i m.cells).getD 0

/-- Byte `i` of WRAM, of the triple that R43 makes the bus state. -/
def wramByte (m : Memory) (i : Nat) : Byte := (cellsGet (0xC000 + i) m.cells).getD 0

/-- Byte `i` of HRAM, of the triple that R43 makes the bus state. -/
def hramByte (m : Memory) (i : Nat) : Byte := (cellsGet (0xFF80 + i) m.cells).getD 0

/-- The three parts of the bus state of R43 hold the same bytes, but for one byte of WRAM or HRAM where an index is given. -/
def SameBusBytes (m m' : Memory) (exceptWram exceptHram : Option Nat) : Prop :=
  (∀ i, i < 256 → bootByte m' i = bootByte m i) ∧
  (∀ i, i < 8192 → some i ≠ exceptWram → wramByte m' i = wramByte m i) ∧
  (∀ i, i < 127 → some i ≠ exceptHram → hramByte m' i = hramByte m i)

/-- The two-digit decimal number `n` in BCD: tens in bits 7..4, units in bits 3..0. -/
def bcd (n : Nat) : Byte := BitVec.ofNat 8 (n / 10 * 16 + n % 10)

end Sys2Proof.Safety
end

