-- ==== Sys2Proof/Certificates/Slice0/Obligations.lean ====
section
/-! DEFINITION. The statements for the provers, from the numbered rules of spec/. The frame of an instruction that reads memory is taken
against the state its reads leave, `s.afterRead x`, `s.afterRead16 x` or `s.afterGet8 r`: that is `s` itself on RefMap and FlatRAM and for a
register operand, and on a supplied bus what the bus makes of those reads (R50; SuppliedBusAnswersEveryAccess). -/

open Sys2Proof Sys2Proof.Machine Sys2Proof.Safety

/-- O1: LD r8,r8 copies the source operand into the destination and changes nothing else. Basis: stated (R100). -/
def Obligations.LoadRegisterFromRegister : Prop :=
  ∀ (dst src : R8) (s : State), dst ≠ .hlInd ∨ src ≠ .hlInd →
    Decodes [withZ (withY 0x40 dst.idx) src.idx] (.ldR8R8 dst src) ∧
    ∃ t, exec (.ldR8R8 dst src) s = .next t ∧ t.pc = s.pc + 1 ∧ WritesR8 dst (s.get8 src) [.pc] (s.afterGet8 src) t

/-- O2: LD r8,d8 puts the immediate into the destination and changes nothing else. Basis: stated (R101). -/
def Obligations.LoadRegisterImmediate : Prop :=
  ∀ (dst : R8) (n : Byte) (s : State),
    Decodes [withY 0x06 dst.idx, n] (.ldR8D8 dst n) ∧
    ∃ t, exec (.ldR8D8 dst n) s = .next t ∧ t.pc = s.pc + 2 ∧ WritesR8 dst n [.pc] s t

/-- O3: The stores of A write one byte at the address the form names and change nothing else. Basis: stated (R102, R103, R110, R112, R114). -/
def Obligations.StoreAccumulatorForms : Prop :=
  ∀ (s : State) (a8 : Byte) (a16 : Word),
    (Decodes [0x02] .ldBcIndA ∧ ∃ t, exec .ldBcIndA s = .next t ∧ t.pc = s.pc + 1 ∧ StoresByte s t s.pairBC s.a ∧ KeepsExcept [.pc, .memory] s t) ∧
    (Decodes [0x12] .ldDeIndA ∧ ∃ t, exec .ldDeIndA s = .next t ∧ t.pc = s.pc + 1 ∧ StoresByte s t s.pairDE s.a ∧ KeepsExcept [.pc, .memory] s t) ∧
    (Decodes [0xE0, a8] (.ldhA8A a8) ∧ ∃ t, exec (.ldhA8A a8) s = .next t ∧ t.pc = s.pc + 2 ∧ StoresByte s t (0xFF00#16 ||| a8.setWidth 16) s.a ∧ KeepsExcept [.pc, .memory] s t) ∧
    (Decodes [0xE2] .ldCIndA ∧ ∃ t, exec .ldCIndA s = .next t ∧ t.pc = s.pc + 1 ∧ StoresByte s t (0xFF00#16 ||| s.c.setWidth 16) s.a ∧ KeepsExcept [.pc, .memory] s t) ∧
    (Decodes [0xEA, loByte a16, hiByte a16] (.ldA16A a16) ∧ ∃ t, exec (.ldA16A a16) s = .next t ∧ t.pc = s.pc + 3 ∧ StoresByte s t a16 s.a ∧ KeepsExcept [.pc, .memory] s t)

/-- O4: The loads of A read one byte at the address the form names and change nothing else. Basis: stated (R104, R105, R111, R113, R115). -/
def Obligations.LoadAccumulatorForms : Prop :=
  ∀ (s : State) (a8 : Byte) (a16 : Word),
    (Decodes [0x0A] .ldABcInd ∧ ∃ t, exec .ldABcInd s = .next t ∧ t.pc = s.pc + 1 ∧ t.a = s.read s.pairBC ∧ KeepsExcept [.a, .pc] (s.afterRead s.pairBC) t) ∧
    (Decodes [0x1A] .ldADeInd ∧ ∃ t, exec .ldADeInd s = .next t ∧ t.pc = s.pc + 1 ∧ t.a = s.read s.pairDE ∧ KeepsExcept [.a, .pc] (s.afterRead s.pairDE) t) ∧
    (Decodes [0xF0, a8] (.ldhAA8 a8) ∧ ∃ t, exec (.ldhAA8 a8) s = .next t ∧ t.pc = s.pc + 2 ∧ t.a = s.read (0xFF00#16 ||| a8.setWidth 16) ∧ KeepsExcept [.a, .pc] (s.afterRead (0xFF00#16 ||| a8.setWidth 16)) t) ∧
    (Decodes [0xF2] .ldACInd ∧ ∃ t, exec .ldACInd s = .next t ∧ t.pc = s.pc + 1 ∧ t.a = s.read (0xFF00#16 ||| s.c.setWidth 16) ∧ KeepsExcept [.a, .pc] (s.afterRead (0xFF00#16 ||| s.c.setWidth 16)) t) ∧
    (Decodes [0xFA, loByte a16, hiByte a16] (.ldAA16 a16) ∧ ∃ t, exec (.ldAA16 a16) s = .next t ∧ t.pc = s.pc + 3 ∧ t.a = s.read a16 ∧ KeepsExcept [.a, .pc] (s.afterRead a16) t)

/-- O5: LD (HL+),A, LD (HL-),A, LD A,(HL+) and LD A,(HL-) access the old HL and then step HL by one. Basis: stated (R106, R107, R108, R109). -/
def Obligations.HlStepForms : Prop :=
  ∀ (s : State),
    (Decodes [0x22] .ldHlIncA ∧ ∃ t, exec .ldHlIncA s = .next t ∧ t.pc = s.pc + 1 ∧ t.pairHL = s.pairHL + 1 ∧ StoresByte s t s.pairHL s.a ∧ KeepsExcept [.h, .l, .pc, .memory] s t) ∧
    (Decodes [0x32] .ldHlDecA ∧ ∃ t, exec .ldHlDecA s = .next t ∧ t.pc = s.pc + 1 ∧ t.pairHL = s.pairHL - 1 ∧ StoresByte s t s.pairHL s.a ∧ KeepsExcept [.h, .l, .pc, .memory] s t) ∧
    (Decodes [0x2A] .ldAHlInc ∧ ∃ t, exec .ldAHlInc s = .next t ∧ t.pc = s.pc + 1 ∧ t.pairHL = s.pairHL + 1 ∧ t.a = s.read s.pairHL ∧ KeepsExcept [.a, .h, .l, .pc] (s.afterRead s.pairHL) t) ∧
    (Decodes [0x3A] .ldAHlDec ∧ ∃ t, exec .ldAHlDec s = .next t ∧ t.pc = s.pc + 1 ∧ t.pairHL = s.pairHL - 1 ∧ t.a = s.read s.pairHL ∧ KeepsExcept [.a, .h, .l, .pc] (s.afterRead s.pairHL) t)

/-- O6: LD rr,d16 and LD SP,HL put a word into a pair or SP and change nothing else. Basis: stated (R120, R122). -/
def Obligations.LoadPairForms : Prop :=
  ∀ (rr : RR) (v : Word) (s : State),
    (Decodes [withP 0x01 rr.idx, loByte v, hiByte v] (.ldRrD16 rr v) ∧ ∃ t, exec (.ldRrD16 rr v) s = .next t ∧ t.pc = s.pc + 3 ∧ WritesRR rr v [.pc] s t) ∧
    (Decodes [0xF9] .ldSpHl ∧ ∃ t, exec .ldSpHl s = .next t ∧ t.pc = s.pc + 1 ∧ t.sp = word s.h s.l ∧ KeepsExcept [.sp, .pc] s t)

/-- O7: LD (a16),SP stores SP little-endian at a16 and changes nothing else. Basis: stated (R121). -/
def Obligations.StoreStackPointer : Prop :=
  ∀ (a16 : Word) (s : State),
    Decodes [0x08, loByte a16, hiByte a16] (.ldA16Sp a16) ∧ ∃ t, exec (.ldA16Sp a16) s = .next t ∧ t.pc = s.pc + 3 ∧ StoresWord s t a16 s.sp ∧ KeepsExcept [.pc, .memory] s t

/-- O8: ADD SP,e8 and LD HL,SP+e8 add a signed displacement; H and C come from the unsigned low bytes, Z and N are 0. Basis: stated (R160, R164, R123). -/
def Obligations.StackPointerOffset : Prop :=
  ∀ (e : Byte) (s : State),
    (Decodes [0xE8, e] (.addSpE8 e) ∧ ∃ t, exec (.addSpE8 e) s = .next t ∧ t.pc = s.pc + 2 ∧
      (t.sp.toNat : Int) = ((s.sp.toNat : Int) + e.toInt) % 65536 ∧
      FlagsAre t false false (decide (s.sp.toNat % 16 + e.toNat % 16 > 15)) (decide (s.sp.toNat % 256 + e.toNat > 255)) ∧
      KeepsExcept [.sp, .f, .pc] s t) ∧
    (Decodes [0xF8, e] (.ldHlSpE8 e) ∧ ∃ t, exec (.ldHlSpE8 e) s = .next t ∧ t.pc = s.pc + 2 ∧
      (t.pairHL.toNat : Int) = ((s.sp.toNat : Int) + e.toInt) % 65536 ∧
      FlagsAre t false false (decide (s.sp.toNat % 16 + e.toNat % 16 > 15)) (decide (s.sp.toNat % 256 + e.toNat > 255)) ∧
      KeepsExcept [.h, .l, .f, .pc] s t)

/-- O9: ADD A,r8 and ADC A,r8: A takes the sum modulo 256, with Z, H and C of it and N = 0. Basis: stated (R130, R133, R134). -/
def Obligations.AddRegisterForms : Prop :=
  ∀ (r : R8) (s : State),
    (Decodes [withZ 0x80 r.idx] (.addAR8 r) ∧ ∃ t, exec (.addAR8 r) s = .next t ∧ t.pc = s.pc + 1 ∧
      t.a.toNat = (s.a.toNat + (s.get8 r).toNat + 0) % 256 ∧
      FlagsAre t (decide (t.a = 0)) false (decide (s.a.toNat % 16 + (s.get8 r).toNat % 16 + 0 > 15))
        (decide (s.a.toNat + (s.get8 r).toNat + 0 > 255)) ∧
      KeepsExcept [.a, .f, .pc] (s.afterGet8 r) t) ∧
    (Decodes [withZ 0x88 r.idx] (.adcAR8 r) ∧ ∃ t, exec (.adcAR8 r) s = .next t ∧ t.pc = s.pc + 1 ∧
      t.a.toNat = (s.a.toNat + (s.get8 r).toNat + s.flagC.toNat) % 256 ∧
      FlagsAre t (decide (t.a = 0)) false (decide (s.a.toNat % 16 + (s.get8 r).toNat % 16 + s.flagC.toNat > 15))
        (decide (s.a.toNat + (s.get8 r).toNat + s.flagC.toNat > 255)) ∧
      KeepsExcept [.a, .f, .pc] (s.afterGet8 r) t)

/-- O10: ADD A,d8 and ADC A,d8: A takes the sum modulo 256, with Z, H and C of it and N = 0. Basis: stated (R141, R142). -/
def Obligations.AddImmediateForms : Prop :=
  ∀ (n : Byte) (s : State),
    (Decodes [0xC6, n] (.addAD8 n) ∧ ∃ t, exec (.addAD8 n) s = .next t ∧ t.pc = s.pc + 2 ∧
      t.a.toNat = (s.a.toNat + n.toNat + 0) % 256 ∧
      FlagsAre t (decide (t.a = 0)) false (decide (s.a.toNat % 16 + n.toNat % 16 + 0 > 15))
        (decide (s.a.toNat + n.toNat + 0 > 255)) ∧
      KeepsExcept [.a, .f, .pc] s t) ∧
    (Decodes [0xCE, n] (.adcAD8 n) ∧ ∃ t, exec (.adcAD8 n) s = .next t ∧ t.pc = s.pc + 2 ∧
      t.a.toNat = (s.a.toNat + n.toNat + s.flagC.toNat) % 256 ∧
      FlagsAre t (decide (t.a = 0)) false (decide (s.a.toNat % 16 + n.toNat % 16 + s.flagC.toNat > 15))
        (decide (s.a.toNat + n.toNat + s.flagC.toNat > 255)) ∧
      KeepsExcept [.a, .f, .pc] s t)

/-- O11: SUB r8, SBC A,r8 and CP r8: the difference modulo 256 (CP writes no A), Z, H and C of it, N = 1. Basis: stated (R131, R135, R136, R140). -/
def Obligations.SubtractRegisterForms : Prop :=
  ∀ (r : R8) (s : State),
    (Decodes [withZ 0x90 r.idx] (.subR8 r) ∧ ∃ t, exec (.subR8 r) s = .next t ∧ t.pc = s.pc + 1 ∧
      (t.a.toNat : Int) = ((s.a.toNat : Int) - (s.get8 r).toNat - 0) % 256 ∧
      FlagsAre t (decide (((s.a.toNat : Int) - (s.get8 r).toNat - 0) % 256 = 0)) true
        (decide (s.a.toNat % 16 < (s.get8 r).toNat % 16 + 0)) (decide (s.a.toNat < (s.get8 r).toNat + 0)) ∧
      KeepsExcept [.a, .f, .pc] (s.afterGet8 r) t) ∧
    (Decodes [withZ 0x98 r.idx] (.sbcAR8 r) ∧ ∃ t, exec (.sbcAR8 r) s = .next t ∧ t.pc = s.pc + 1 ∧
      (t.a.toNat : Int) = ((s.a.toNat : Int) - (s.get8 r).toNat - s.flagC.toNat) % 256 ∧
      FlagsAre t (decide (((s.a.toNat : Int) - (s.get8 r).toNat - s.flagC.toNat) % 256 = 0)) true
        (decide (s.a.toNat % 16 < (s.get8 r).toNat % 16 + s.flagC.toNat)) (decide (s.a.toNat < (s.get8 r).toNat + s.flagC.toNat)) ∧
      KeepsExcept [.a, .f, .pc] (s.afterGet8 r) t) ∧
    (Decodes [withZ 0xB8 r.idx] (.cpR8 r) ∧ ∃ t, exec (.cpR8 r) s = .next t ∧ t.pc = s.pc + 1 ∧
      FlagsAre t (decide (((s.a.toNat : Int) - (s.get8 r).toNat - 0) % 256 = 0)) true
        (decide (s.a.toNat % 16 < (s.get8 r).toNat % 16 + 0)) (decide (s.a.toNat < (s.get8 r).toNat + 0)) ∧
      KeepsExcept [.f, .pc] (s.afterGet8 r) t)

/-- O12: SUB d8, SBC A,d8 and CP d8: the difference modulo 256 (CP writes no A), Z, H and C of it, N = 1. Basis: stated (R143, R144, R148). -/
def Obligations.SubtractImmediateForms : Prop :=
  ∀ (n : Byte) (s : State),
    (Decodes [0xD6, n] (.subD8 n) ∧ ∃ t, exec (.subD8 n) s = .next t ∧ t.pc = s.pc + 2 ∧
      (t.a.toNat : Int) = ((s.a.toNat : Int) - n.toNat - 0) % 256 ∧
      FlagsAre t (decide (((s.a.toNat : Int) - n.toNat - 0) % 256 = 0)) true
        (decide (s.a.toNat % 16 < n.toNat % 16 + 0)) (decide (s.a.toNat < n.toNat + 0)) ∧
      KeepsExcept [.a, .f, .pc] s t) ∧
    (Decodes [0xDE, n] (.sbcAD8 n) ∧ ∃ t, exec (.sbcAD8 n) s = .next t ∧ t.pc = s.pc + 2 ∧
      (t.a.toNat : Int) = ((s.a.toNat : Int) - n.toNat - s.flagC.toNat) % 256 ∧
      FlagsAre t (decide (((s.a.toNat : Int) - n.toNat - s.flagC.toNat) % 256 = 0)) true
        (decide (s.a.toNat % 16 < n.toNat % 16 + s.flagC.toNat)) (decide (s.a.toNat < n.toNat + s.flagC.toNat)) ∧
      KeepsExcept [.a, .f, .pc] s t) ∧
    (Decodes [0xFE, n] (.cpD8 n) ∧ ∃ t, exec (.cpD8 n) s = .next t ∧ t.pc = s.pc + 2 ∧
      FlagsAre t (decide (((s.a.toNat : Int) - n.toNat - 0) % 256 = 0)) true
        (decide (s.a.toNat % 16 < n.toNat % 16 + 0)) (decide (s.a.toNat < n.toNat + 0)) ∧
      KeepsExcept [.f, .pc] s t)

/-- O13: AND, XOR and OR with r8: bitwise into A, Z of the result, N = C = 0, H = 1 for AND and 0 for XOR and OR. Basis: stated (R132, R137, R138, R139). -/
def Obligations.LogicRegisterForms : Prop :=
  ∀ (r : R8) (s : State),
    (Decodes [withZ 0xA0 r.idx] (.andR8 r) ∧ ∃ t, exec (.andR8 r) s = .next t ∧ t.pc = s.pc + 1 ∧ (∀ k, t.a.getLsbD k = (s.a.getLsbD k && (s.get8 r).getLsbD k)) ∧
      FlagsAre t (decide (t.a = 0)) false true false ∧ KeepsExcept [.a, .f, .pc] (s.afterGet8 r) t) ∧
    (Decodes [withZ 0xA8 r.idx] (.xorR8 r) ∧ ∃ t, exec (.xorR8 r) s = .next t ∧ t.pc = s.pc + 1 ∧ (∀ k, t.a.getLsbD k = (s.a.getLsbD k ^^ (s.get8 r).getLsbD k)) ∧
      FlagsAre t (decide (t.a = 0)) false false false ∧ KeepsExcept [.a, .f, .pc] (s.afterGet8 r) t) ∧
    (Decodes [withZ 0xB0 r.idx] (.orR8 r) ∧ ∃ t, exec (.orR8 r) s = .next t ∧ t.pc = s.pc + 1 ∧ (∀ k, t.a.getLsbD k = (s.a.getLsbD k || (s.get8 r).getLsbD k)) ∧
      FlagsAre t (decide (t.a = 0)) false false false ∧ KeepsExcept [.a, .f, .pc] (s.afterGet8 r) t)

/-- O14: AND, XOR and OR with d8: bitwise into A, Z of the result, N = C = 0, H = 1 for AND and 0 for XOR and OR. Basis: stated (R145, R146, R147). -/
def Obligations.LogicImmediateForms : Prop :=
  ∀ (n : Byte) (s : State),
    (Decodes [0xE6, n] (.andD8 n) ∧ ∃ t, exec (.andD8 n) s = .next t ∧ t.pc = s.pc + 2 ∧ (∀ k, t.a.getLsbD k = (s.a.getLsbD k && n.getLsbD k)) ∧
      FlagsAre t (decide (t.a = 0)) false true false ∧ KeepsExcept [.a, .f, .pc] s t) ∧
    (Decodes [0xEE, n] (.xorD8 n) ∧ ∃ t, exec (.xorD8 n) s = .next t ∧ t.pc = s.pc + 2 ∧ (∀ k, t.a.getLsbD k = (s.a.getLsbD k ^^ n.getLsbD k)) ∧
      FlagsAre t (decide (t.a = 0)) false false false ∧ KeepsExcept [.a, .f, .pc] s t) ∧
    (Decodes [0xF6, n] (.orD8 n) ∧ ∃ t, exec (.orD8 n) s = .next t ∧ t.pc = s.pc + 2 ∧ (∀ k, t.a.getLsbD k = (s.a.getLsbD k || n.getLsbD k)) ∧
      FlagsAre t (decide (t.a = 0)) false false false ∧ KeepsExcept [.a, .f, .pc] s t)

/-- O15: INC r8 and DEC r8 step the operand by one modulo 256 with Z, N and H of it and keep C. Basis: stated (R149, R150). -/
def Obligations.StepRegisterForms : Prop :=
  ∀ (dst : R8) (s : State),
    (Decodes [withY 0x04 dst.idx] (.incR8 dst) ∧ ∃ t, exec (.incR8 dst) s = .next t ∧ t.pc = s.pc + 1 ∧
      WritesR8 dst (BitVec.ofNat 8 ((s.get8 dst).toNat + 1)) [.f, .pc] (s.afterGet8 dst) t ∧
      FlagsAre t (decide (((s.get8 dst).toNat + 1) % 256 = 0)) false (decide ((s.get8 dst).toNat % 16 = 15)) s.flagC) ∧
    (Decodes [withY 0x05 dst.idx] (.decR8 dst) ∧ ∃ t, exec (.decR8 dst) s = .next t ∧ t.pc = s.pc + 1 ∧
      WritesR8 dst (BitVec.ofNat 8 ((s.get8 dst).toNat + 255)) [.f, .pc] (s.afterGet8 dst) t ∧
      FlagsAre t (decide (((s.get8 dst).toNat + 255) % 256 = 0)) true (decide ((s.get8 dst).toNat % 16 = 0)) s.flagC)

/-- O16: DAA corrects A by 0x60 and 0x06 as N, H, C and A select, with Z of the result, H = 0, N kept (decision D17). Basis: derived (43_alu8.md R151 (DAA; decision D17), 92_eei_decisions.md D17, 90_conflicts.md C9). -/
def Obligations.DecimalAdjust : Prop :=
  ∀ (s : State),
    Decodes [0x27] .daa ∧ ∃ t, exec .daa s = .next t ∧ t.pc = s.pc + 1 ∧ KeepsExcept [.a, .f, .pc] s t ∧
      (s.flagN = false →
        t.a = s.a + (if s.flagC = true ∨ s.a.toNat > 0x99 then 0x60#8 else 0) +
          (if s.flagH = true ∨ s.a.toNat % 16 > 9 then 0x06#8 else 0) ∧
        FlagsAre t (decide (t.a = 0)) false false (s.flagC || decide (s.a.toNat > 0x99))) ∧
      (s.flagN = true →
        t.a = s.a - (if s.flagC = true then 0x60#8 else 0) - (if s.flagH = true then 0x06#8 else 0) ∧
        FlagsAre t (decide (t.a = 0)) true false s.flagC)

/-- O17: After ADC or SBC of two-digit BCD numbers, register or immediate, DAA leaves their decimal sum or difference, with C the decimal carry. Basis: derived (43_alu8.md R130, R131, R134, R136, R142, R144, R151, 92_eei_decisions.md D17). -/
def Obligations.DecimalAdjustMakesDecimalSums : Prop :=
  ∀ (s : State) (x y : Nat), x < 100 → y < 100 → s.a = bcd x →
    (∃ t u, exec (.adcAD8 (bcd y)) s = .next t ∧ exec .daa t = .next u ∧
      u.a = bcd ((x + y + s.flagC.toNat) % 100) ∧ u.flagC = decide (x + y + s.flagC.toNat ≥ 100)) ∧
    (∃ t u, exec (.sbcAD8 (bcd y)) s = .next t ∧ exec .daa t = .next u ∧
      u.a = bcd ((x + 200 - y - s.flagC.toNat) % 100) ∧ u.flagC = decide (x < y + s.flagC.toNat)) ∧
    ∀ r : R8, s.get8 r = bcd y →
      (∃ t u, exec (.adcAR8 r) s = .next t ∧ exec .daa t = .next u ∧
        u.a = bcd ((x + y + s.flagC.toNat) % 100) ∧ u.flagC = decide (x + y + s.flagC.toNat ≥ 100)) ∧
      (∃ t u, exec (.sbcAR8 r) s = .next t ∧ exec .daa t = .next u ∧
        u.a = bcd ((x + 200 - y - s.flagC.toNat) % 100) ∧ u.flagC = decide (x < y + s.flagC.toNat))

/-- O18: CPL complements A with N = H = 1; SCF sets C and CCF toggles it with N = H = 0; the other flags are kept. Basis: stated (R152, R153, R154). -/
def Obligations.ComplementAndCarryForms : Prop :=
  ∀ (s : State),
    (Decodes [0x2F] .cpl ∧ ∃ t, exec .cpl s = .next t ∧ t.pc = s.pc + 1 ∧ t.a.toNat = 255 - s.a.toNat ∧ FlagsAre t s.flagZ true true s.flagC ∧
      KeepsExcept [.a, .f, .pc] s t) ∧
    (Decodes [0x37] .scf ∧ ∃ t, exec .scf s = .next t ∧ t.pc = s.pc + 1 ∧ FlagsAre t s.flagZ false false true ∧ KeepsExcept [.f, .pc] s t) ∧
    (Decodes [0x3F] .ccf ∧ ∃ t, exec .ccf s = .next t ∧ t.pc = s.pc + 1 ∧ FlagsAre t s.flagZ false false (!s.flagC) ∧ KeepsExcept [.f, .pc] s t)

/-- O19: INC rr and DEC rr step the pair by one modulo 65536 and write no flag. Basis: stated (R161, R162). -/
def Obligations.StepPairForms : Prop :=
  ∀ (rr : RR) (s : State),
    (Decodes [withP 0x03 rr.idx] (.incRr rr) ∧ ∃ t, exec (.incRr rr) s = .next t ∧ t.pc = s.pc + 1 ∧ WritesRR rr (s.get16 rr + 1) [.pc] s t) ∧
    (Decodes [withP 0x0B rr.idx] (.decRr rr) ∧ ∃ t, exec (.decRr rr) s = .next t ∧ t.pc = s.pc + 1 ∧ WritesRR rr (s.get16 rr - 1) [.pc] s t)

/-- O20: ADD HL,rr: HL takes the sum modulo 65536, H from bit 11, C from bit 15, N = 0, Z kept. Basis: stated (R163). -/
def Obligations.AddPairToHl : Prop :=
  ∀ (rr : RR) (s : State),
    Decodes [withP 0x09 rr.idx] (.addHlRr rr) ∧ ∃ t, exec (.addHlRr rr) s = .next t ∧ t.pc = s.pc + 1 ∧
      t.pairHL.toNat = (s.pairHL.toNat + (s.get16 rr).toNat) % 65536 ∧
      FlagsAre t s.flagZ false (decide (s.pairHL.toNat % 4096 + (s.get16 rr).toNat % 4096 > 4095))
        (decide (s.pairHL.toNat + (s.get16 rr).toNat > 65535)) ∧
      KeepsExcept [.h, .l, .f, .pc] s t

/-- O21: JP a16, JP (HL) and a taken JP cc,a16 set PC to the target; a JP cc not taken moves PC by 3; nothing else changes. Basis: stated (R90, R172, R173, R174). -/
def Obligations.JumpForms : Prop :=
  ∀ (cc : Cond) (x : Word) (s : State),
    (Decodes [0xC3, loByte x, hiByte x] (.jpA16 x) ∧ ∃ t, exec (.jpA16 x) s = .next t ∧ t.pc = x ∧ KeepsExcept [.pc] s t) ∧
    (Decodes [withCc 0xC2 cc.idx, loByte x, hiByte x] (.jpCcA16 cc x) ∧ ∃ t, exec (.jpCcA16 cc x) s = .next t ∧ t.pc = (if taken s cc then x else s.pc + 3) ∧ KeepsExcept [.pc] s t) ∧
    (Decodes [0xE9] .jpHl ∧ ∃ t, exec .jpHl s = .next t ∧ t.pc = word s.h s.l ∧ KeepsExcept [.pc] s t)

/-- O22: JR e8 and a taken JR cc,e8 add the signed displacement to the address of the next instruction, modulo 65536. Basis: stated (R90, R175, R176). -/
def Obligations.RelativeJumpForms : Prop :=
  ∀ (cc : Cond) (e : Byte) (s : State),
    (Decodes [0x18, e] (.jrE8 e) ∧ ∃ t, exec (.jrE8 e) s = .next t ∧ (t.pc.toNat : Int) = ((s.pc.toNat : Int) + 2 + e.toInt) % 65536 ∧
      KeepsExcept [.pc] s t) ∧
    (Decodes [withCc 0x20 cc.idx, e] (.jrCcE8 cc e) ∧ ∃ t, exec (.jrCcE8 cc e) s = .next t ∧ KeepsExcept [.pc] s t ∧
      (if taken s cc then (t.pc.toNat : Int) = ((s.pc.toNat : Int) + 2 + e.toInt) % 65536
      else t.pc = s.pc + 2))

/-- O23: CALL a16 and a taken CALL cc,a16 push the address of the next instruction and jump; not taken, only PC moves. Basis: stated (R90, R170, R177, R178). -/
def Obligations.CallForms : Prop :=
  ∀ (cc : Cond) (x : Word) (s : State),
    (Decodes [0xCD, loByte x, hiByte x] (.callA16 x) ∧ ∃ t, exec (.callA16 x) s = .next t ∧ t.pc = x ∧ t.sp = s.sp - 2 ∧ StoresWord s t (s.sp - 2) (s.pc + 3) ∧
      KeepsExcept [.sp, .pc, .memory] s t) ∧
    (Decodes [withCc 0xC4 cc.idx, loByte x, hiByte x] (.callCcA16 cc x) ∧ ∃ t, exec (.callCcA16 cc x) s = .next t ∧ (if taken s cc then
        t.pc = x ∧ t.sp = s.sp - 2 ∧ StoresWord s t (s.sp - 2) (s.pc + 3) ∧ KeepsExcept [.sp, .pc, .memory] s t
      else t.pc = s.pc + 3 ∧ KeepsExcept [.pc] s t))

/-- O24: RET and a taken RET cc pop PC little-endian from SP (low byte read first by decision D9, log entry 14); a RET cc not taken only moves PC by 1. Basis: derived (40_dispatch.md R90, 45_control.md R171, R179, R180, 20_memory.md R57 (decision D9), 92_eei_decisions.md D9). -/
def Obligations.ReturnForms : Prop :=
  ∀ (cc : Cond) (s : State),
    (Decodes [0xC9] .ret ∧ ∃ t, exec .ret s = .next t ∧ t.pc = word ((s.afterRead s.sp).read (s.sp + 1)) (s.read s.sp) ∧ t.sp = s.sp + 2 ∧
      KeepsExcept [.sp, .pc] (s.afterRead16 s.sp) t) ∧
    (Decodes [withCc 0xC0 cc.idx] (.retCc cc) ∧ ∃ t, exec (.retCc cc) s = .next t ∧ (if taken s cc then
        t.pc = word ((s.afterRead s.sp).read (s.sp + 1)) (s.read s.sp) ∧ t.sp = s.sp + 2 ∧ KeepsExcept [.sp, .pc] (s.afterRead16 s.sp) t
      else t.pc = s.pc + 1 ∧ KeepsExcept [.pc] s t))

/-- O25: RETI is RET (low byte read first by decision D9, log entry 14) with IME set to 1 (decision D7) and restores nothing else. Basis: derived (45_control.md R171, R181 (decision D7), 20_memory.md R57 (decision D9), 92_eei_decisions.md D7, D9). -/
def Obligations.ReturnAndEnable : Prop :=
  ∀ (s : State),
    Decodes [0xD9] .reti ∧ ∃ t, exec .reti s = .next t ∧ t.pc = word ((s.afterRead s.sp).read (s.sp + 1)) (s.read s.sp) ∧ t.sp = s.sp + 2 ∧ t.ime = true ∧
      KeepsExcept [.sp, .pc, .ime] (s.afterRead16 s.sp) t

/-- O26: RST t pushes the address of the next instruction and sets PC to 8 times t. Basis: stated (R170, R182). -/
def Obligations.RestartCallsFixedAddress : Prop :=
  ∀ (k : BitVec 3) (s : State),
    Decodes [withY 0xC7 k] (.rst k) ∧ ∃ t, exec (.rst k) s = .next t ∧ t.pc.toNat = 8 * k.toNat ∧ t.sp = s.sp - 2 ∧
      StoresWord s t (s.sp - 2) (s.pc + 1) ∧ KeepsExcept [.sp, .pc, .memory] s t

/-- O27: PUSH rr lowers SP by 2 and stores the pair little-endian at the new SP; AF is stored with the low nibble of F zero. Basis: stated (R170, R190). -/
def Obligations.PushPair : Prop :=
  ∀ (rr : RStk) (s : State),
    Decodes [withP 0xC5 rr.idx] (.pushRr rr) ∧ ∃ t, exec (.pushRr rr) s = .next t ∧ t.pc = s.pc + 1 ∧ t.sp = s.sp - 2 ∧
      StoresWord s t (s.sp - 2)
        (match rr with
          | .bc => word s.b s.c
          | .de => word s.d s.e
          | .hl => word s.h s.l
          | .af => word s.a (s.f &&& 0xF0#8)) ∧
      KeepsExcept [.sp, .pc, .memory] s t

/-- O28: POP rr loads the pair little-endian from SP (low byte read first by decision D9, log entry 14) and raises SP by 2; POP AF zeroes the low nibble of F. Basis: derived (45_control.md R171, 46_stack.md R191, 20_memory.md R57 (decision D9), 92_eei_decisions.md D9). -/
def Obligations.PopPair : Prop :=
  ∀ (rr : RStk) (s : State),
    Decodes [withP 0xC1 rr.idx] (.popRr rr) ∧ ∃ t, exec (.popRr rr) s = .next t ∧ t.pc = s.pc + 1 ∧ t.sp = s.sp + 2 ∧
      (match rr with
        | .bc => t.b = (s.afterRead s.sp).read (s.sp + 1) ∧ t.c = s.read s.sp
        | .de => t.d = (s.afterRead s.sp).read (s.sp + 1) ∧ t.e = s.read s.sp
        | .hl => t.h = (s.afterRead s.sp).read (s.sp + 1) ∧ t.l = s.read s.sp
        | .af => t.a = (s.afterRead s.sp).read (s.sp + 1) ∧ t.f = s.read s.sp &&& 0xF0#8) ∧
      KeepsExcept (rstkParts rr ++ [.sp, .pc]) (s.afterRead16 s.sp) t

/-- O29: PUSH rr then POP rr restores SP and, where both bytes below SP read back (low first, D9, log entry 14), the pair; after POP AF F has a zero low nibble. Basis: derived (46_stack.md R192 (derived from R170, R171, R43), 20_memory.md R57 (decision D9), 92_eei_decisions.md D9, 90_conflicts.md C2). -/
def Obligations.StackSymmetry : Prop :=
  ∀ (rr : RStk) (s : State),
    ∃ t u, exec (.pushRr rr) s = .next t ∧ exec (.popRr rr) t = .next u ∧ u.sp = s.sp ∧
      ((storesAt s.mem.bus (s.sp - 2) = true ∧ storesAt s.mem.bus (s.sp - 1) = true ∨
          t.read (s.sp - 2) = loByte (s.get16stk rr) ∧ (t.afterRead (s.sp - 2)).read (s.sp - 1) = hiByte (s.get16stk rr)) →
        u.get16stk rr = s.get16stk rr ∧ u.f = (if rr = .af then s.f &&& 0xF0#8 else s.f) ∧ KeepsExcept [.f, .pc, .memory] s u) ∧
      (storesAt s.mem.bus (s.sp - 2) = true → storesAt s.mem.bus (s.sp - 1) = true →
        ∀ x, x ≠ s.sp - 2 → x ≠ s.sp - 1 → u.read x = s.read x)

/-- O30: NOP moves PC by 1 and changes nothing else. Basis: stated (R195). -/
def Obligations.NopOnlyAdvances : Prop :=
  ∀ (s : State),
    Decodes [0x00] .nop ∧ ∃ t, exec .nop s = .next t ∧ t.pc = s.pc + 1 ∧ KeepsExcept [.pc] s t

/-- O31: HALT enters HALTED under HALT_STOPS and takes the UnimplementedOpcode fault under HALT_FAULTS (decisions D5, D8). Basis: derived (47_misc.md R196 (decision D5), 60_exceptions.md R230 (decision D8), 92_eei_decisions.md D5, D8). -/
def Obligations.HaltByParameter : Prop :=
  ∀ (s : State),
    Decodes [0x76] .halt ∧
    (s.params.pHalt = .haltStops →
      ∃ t, exec .halt s = .next t ∧ t.run = .halted ∧ t.pc = s.pc + 1 ∧ KeepsExcept [.pc, .run] s t) ∧
    (s.params.pHalt = .haltFaults →
      ∃ t, exec .halt s = .next t ∧ t.run = .faulted ∧ t.faultRec = some ⟨0x76#8, s.pc⟩ ∧ t.pc = s.pc + 1 ∧ t.report = some 0x76#8 ∧
        KeepsExcept [.pc, .run, .faultRec] s t)

/-- O32: STOP enters STOPPED past its second byte under STOP_STOPS and takes the fault under STOP_FAULTS (decisions D6, D8). Basis: derived (47_misc.md R197 (decision D6), 60_exceptions.md R230 (decision D8), 92_eei_decisions.md D6, D8). -/
def Obligations.StopByParameter : Prop :=
  ∀ (x : Byte) (s : State),
    Decodes [0x10, x] (.stop x) ∧
    (s.params.pStop = .stopStops →
      ∃ t, exec (.stop x) s = .next t ∧ t.run = .stopped ∧ t.pc = s.pc + 2 ∧ KeepsExcept [.pc, .run] s t) ∧
    (s.params.pStop = .stopFaults →
      ∃ t, exec (.stop x) s = .next t ∧ t.run = .faulted ∧ t.faultRec = some ⟨0x10#8, s.pc⟩ ∧ t.pc = s.pc + 1 ∧ t.report = some 0x10#8 ∧
        KeepsExcept [.pc, .run, .faultRec] s t)

/-- O33: DI clears IME and EI sets it at the end of its own step (decision D7); neither changes anything else but PC. Basis: derived (47_misc.md R198, R199 (decision D7), 92_eei_decisions.md D7). -/
def Obligations.InterruptHookWrites : Prop :=
  ∀ (s : State),
    (Decodes [0xF3] .di ∧ ∃ t, exec .di s = .next t ∧ t.pc = s.pc + 1 ∧ t.ime = false ∧ KeepsExcept [.pc, .ime] s t) ∧
    (Decodes [0xFB] .ei ∧ ∃ t, exec .ei s = .next t ∧ t.pc = s.pc + 1 ∧ t.ime = true ∧ KeepsExcept [.pc, .ime] s t)

/-- O34: RLCA, RRCA, RLA and RRA rotate A by one; C is the bit rotated out and Z = N = H = 0 whatever the result. Basis: stated (R200, R201, R202, R203). -/
def Obligations.AccumulatorRotateForms : Prop :=
  ∀ (s : State),
    (Decodes [0x07] .rlca ∧ ∃ t, exec .rlca s = .next t ∧ t.pc = s.pc + 1 ∧ t.a = BitVec.ofNat 8 (2 * s.a.toNat + s.a.toNat / 128) ∧
      FlagsAre t false false false (decide (s.a.toNat ≥ 128)) ∧ KeepsExcept [.a, .f, .pc] s t) ∧
    (Decodes [0x0F] .rrca ∧ ∃ t, exec .rrca s = .next t ∧ t.pc = s.pc + 1 ∧ t.a = BitVec.ofNat 8 (s.a.toNat / 2 + 128 * (s.a.toNat % 2)) ∧
      FlagsAre t false false false (decide (s.a.toNat % 2 = 1)) ∧ KeepsExcept [.a, .f, .pc] s t) ∧
    (Decodes [0x17] .rla ∧ ∃ t, exec .rla s = .next t ∧ t.pc = s.pc + 1 ∧ t.a = BitVec.ofNat 8 (2 * s.a.toNat + s.flagC.toNat) ∧
      FlagsAre t false false false (decide (s.a.toNat ≥ 128)) ∧ KeepsExcept [.a, .f, .pc] s t) ∧
    (Decodes [0x1F] .rra ∧ ∃ t, exec .rra s = .next t ∧ t.pc = s.pc + 1 ∧ t.a = BitVec.ofNat 8 (s.a.toNat / 2 + 128 * s.flagC.toNat) ∧
      FlagsAre t false false false (decide (s.a.toNat % 2 = 1)) ∧ KeepsExcept [.a, .f, .pc] s t)

/-- O35: RLC, RRC, RL and RR rotate the operand by one; C is the bit rotated out, Z of the result, N = H = 0. Basis: stated (R211, R212, R213, R214). -/
def Obligations.PrefixedRotateForms : Prop :=
  ∀ (r : R8) (s : State),
    (Decodes [0xCB, withZ 0x00 r.idx] (.rlc r) ∧ ∃ t, exec (.rlc r) s = .next t ∧ t.pc = s.pc + 2 ∧
      WritesR8 r (BitVec.ofNat 8 (2 * (s.get8 r).toNat + (s.get8 r).toNat / 128)) [.f, .pc] (s.afterGet8 r) t ∧
      FlagsAre t (decide ((2 * (s.get8 r).toNat + (s.get8 r).toNat / 128) % 256 = 0)) false false (decide ((s.get8 r).toNat ≥ 128))) ∧
    (Decodes [0xCB, withZ 0x08 r.idx] (.rrc r) ∧ ∃ t, exec (.rrc r) s = .next t ∧ t.pc = s.pc + 2 ∧
      WritesR8 r (BitVec.ofNat 8 ((s.get8 r).toNat / 2 + 128 * ((s.get8 r).toNat % 2))) [.f, .pc] (s.afterGet8 r) t ∧
      FlagsAre t (decide (((s.get8 r).toNat / 2 + 128 * ((s.get8 r).toNat % 2)) % 256 = 0)) false false (decide ((s.get8 r).toNat % 2 = 1))) ∧
    (Decodes [0xCB, withZ 0x10 r.idx] (.rl r) ∧ ∃ t, exec (.rl r) s = .next t ∧ t.pc = s.pc + 2 ∧
      WritesR8 r (BitVec.ofNat 8 (2 * (s.get8 r).toNat + s.flagC.toNat)) [.f, .pc] (s.afterGet8 r) t ∧
      FlagsAre t (decide ((2 * (s.get8 r).toNat + s.flagC.toNat) % 256 = 0)) false false (decide ((s.get8 r).toNat ≥ 128))) ∧
    (Decodes [0xCB, withZ 0x18 r.idx] (.rr r) ∧ ∃ t, exec (.rr r) s = .next t ∧ t.pc = s.pc + 2 ∧
      WritesR8 r (BitVec.ofNat 8 ((s.get8 r).toNat / 2 + 128 * s.flagC.toNat)) [.f, .pc] (s.afterGet8 r) t ∧
      FlagsAre t (decide (((s.get8 r).toNat / 2 + 128 * s.flagC.toNat) % 256 = 0)) false false (decide ((s.get8 r).toNat % 2 = 1)))

/-- O36: SLA, SRA, SRL shift the operand by one with C the bit shifted out; SWAP exchanges nibbles with C = 0; Z of the result. Basis: stated (R215, R216, R217, R218). -/
def Obligations.PrefixedShiftForms : Prop :=
  ∀ (r : R8) (s : State),
    (Decodes [0xCB, withZ 0x20 r.idx] (.sla r) ∧ ∃ t, exec (.sla r) s = .next t ∧ t.pc = s.pc + 2 ∧
      WritesR8 r (BitVec.ofNat 8 (2 * (s.get8 r).toNat)) [.f, .pc] (s.afterGet8 r) t ∧
      FlagsAre t (decide ((2 * (s.get8 r).toNat) % 256 = 0)) false false (decide ((s.get8 r).toNat ≥ 128))) ∧
    (Decodes [0xCB, withZ 0x28 r.idx] (.sra r) ∧ ∃ t, exec (.sra r) s = .next t ∧ t.pc = s.pc + 2 ∧
      WritesR8 r (BitVec.ofNat 8 ((s.get8 r).toNat / 2 + 128 * ((s.get8 r).toNat / 128))) [.f, .pc] (s.afterGet8 r) t ∧
      FlagsAre t (decide (((s.get8 r).toNat / 2 + 128 * ((s.get8 r).toNat / 128)) % 256 = 0)) false false (decide ((s.get8 r).toNat % 2 = 1))) ∧
    (Decodes [0xCB, withZ 0x30 r.idx] (.swap r) ∧ ∃ t, exec (.swap r) s = .next t ∧ t.pc = s.pc + 2 ∧
      WritesR8 r (BitVec.ofNat 8 ((s.get8 r).toNat % 16 * 16 + (s.get8 r).toNat / 16)) [.f, .pc] (s.afterGet8 r) t ∧
      FlagsAre t (decide (((s.get8 r).toNat % 16 * 16 + (s.get8 r).toNat / 16) % 256 = 0)) false false false) ∧
    (Decodes [0xCB, withZ 0x38 r.idx] (.srl r) ∧ ∃ t, exec (.srl r) s = .next t ∧ t.pc = s.pc + 2 ∧
      WritesR8 r (BitVec.ofNat 8 ((s.get8 r).toNat / 2)) [.f, .pc] (s.afterGet8 r) t ∧
      FlagsAre t (decide (((s.get8 r).toNat / 2) % 256 = 0)) false false (decide ((s.get8 r).toNat % 2 = 1)))

/-- O37: BIT b,r8 sets Z to the complement of the bit, N = 0, H = 1, keeps C and writes nothing else. Basis: stated (R219). -/
def Obligations.BitTest : Prop :=
  ∀ (b : BitVec 3) (r : R8) (s : State),
    Decodes [0xCB, withZ (withY 0x40 b) r.idx] (.bit b r) ∧ ∃ t, exec (.bit b r) s = .next t ∧ t.pc = s.pc + 2 ∧
      FlagsAre t (!(s.get8 r).getLsbD b.toNat) false true s.flagC ∧ KeepsExcept [.f, .pc] (s.afterGet8 r) t

/-- O38: RES b,r8 clears and SET b,r8 sets one bit of the operand, keep its other bits and write no flag. Basis: stated (R220, R221). -/
def Obligations.BitClearAndSet : Prop :=
  ∀ (b : BitVec 3) (r : R8) (s : State),
    (Decodes [0xCB, withZ (withY 0x80 b) r.idx] (.res b r) ∧ ∃ t, exec (.res b r) s = .next t ∧ t.pc = s.pc + 2 ∧
      ∃ w : Byte, (∀ k, k < 8 → w.getLsbD k = if k = b.toNat then false else (s.get8 r).getLsbD k) ∧
        WritesR8 r w [.pc] (s.afterGet8 r) t) ∧
    (Decodes [0xCB, withZ (withY 0xC0 b) r.idx] (.set b r) ∧ ∃ t, exec (.set b r) s = .next t ∧ t.pc = s.pc + 2 ∧
      ∃ w : Byte, (∀ k, k < 8 → w.getLsbD k = if k = b.toNat then true else (s.get8 r).getLsbD k) ∧
        WritesR8 r w [.pc] (s.afterGet8 r) t)

/-- O39: The table row PREFIX CB, a term by the model's choice (log entry 7), runs the row of the secondary space its second byte selects. Basis: derived (40_dispatch.md R82, 30_encoding.md R66, R68). -/
def Obligations.PrefixRunsSecondaryRow : Prop :=
  ∀ (op2 : Byte) (s : State),
    Decodes [0xCB, op2] (decodeCb op2) ∧
    ∃ t, exec (.prefixCb op2) s = .next t ∧ exec (decodeCb op2) s = .next t

/-- O40: Each of the eleven opcodes with no defined operation takes the UnimplementedOpcode fault (decisions D1, D8). Basis: derived (30_encoding.md R67 (decision D1), 60_exceptions.md R230 (decision D8), 92_eei_decisions.md D1, D8). -/
def Obligations.UndefinedOpcodesFault : Prop :=
  ∀ row ∈ undefinedRows, ∀ (s : State),
    Decodes [row.2] row.1 ∧
    ∃ t, exec row.1 s = .next t ∧ t.run = .faulted ∧ t.faultRec = some ⟨row.2, s.pc⟩ ∧ t.pc = s.pc + 1 ∧ t.report = some row.2 ∧
        KeepsExcept [.pc, .run, .faultRec] s t

/-- O41: Decoding the encoding of any well-formed instruction gives that instruction back, with every operand. Basis: derived (30_encoding.md R60–R70, 40_dispatch.md R83). -/
def Obligations.EncodeThenDecode : Prop :=
  ∀ (i : Instr), i.wellFormed = true → Decodes (encode i) i

/-- O42: Every byte sequence decodes to one well-formed instruction, whose encoding is the bytes consumed. Basis: derived (40_dispatch.md R83, 30_encoding.md R65, R66, R69, R70). -/
def Obligations.DecodeThenEncode : Prop :=
  ∀ (op n1 n2 : Byte),
    (decodeOp op n1 n2).wellFormed = true ∧ encode (decodeOp op n1 n2) = [op, n1, n2].take (lengthOf op)

/-- O43: Words written out from the opcode maps decode to the instructions they stand for, one of each family. Basis: derived (30_encoding.md R65, R66, 95_test_vectors.md L2, L3). -/
def Obligations.SampleWordsDecode : Prop :=
  Decodes [0x3E, 0x05] (.ldR8D8 .a 0x05) ∧ Decodes [0x08, 0x00, 0xC0] (.ldA16Sp 0xC000) ∧ Decodes [0x8E] (.adcAR8 .hlInd) ∧
    Decodes [0xE6, 0x3F] (.andD8 0x3F) ∧ Decodes [0x35] (.decR8 .hlInd) ∧ Decodes [0x29] (.addHlRr .hl) ∧
    Decodes [0xE8, 0xF0] (.addSpE8 0xF0) ∧ Decodes [0xC2, 0x34, 0x12] (.jpCcA16 .nz 0x1234) ∧
    Decodes [0x38, 0x10] (.jrCcE8 .c 0x10) ∧ Decodes [0xF5] (.pushRr .af) ∧ Decodes [0x76] .halt ∧
    Decodes [0xCB, 0x7E] (.bit 7 .hlInd) ∧ Decodes [0xD3] .unimplD3

/-- O44: A RUNNING step reads the instruction at PC bytewise and runs what it decodes to (three bytes decoded, PC moved by exec: log entry 8); others change nothing. Basis: derived (40_dispatch.md R80 (decisions D5, D6, D8), R81, R82, R92, 47_misc.md R197 (decision D6), 20_memory.md R50 (decision D10), R57 (decision D9), R58). -/
def Obligations.StepRunsDecodedInstruction : Prop :=
  ∀ (s : State),
    (∀ (i : Instr) (rest : List Byte), s.run = .running →
      decode [s.read s.pc, (s.afterRead s.pc).read (s.pc + 1), ((s.afterRead s.pc).afterRead (s.pc + 1)).read (s.pc + 2)] = .ok (i, rest) →
        step s = exec i (s.afterReads s.pc
          (if s.read s.pc = 0x10#8 ∧ s.params.pStop = .stopFaults then 1 else lengthOf (s.read s.pc)))) ∧
    (∀ (n : Nat) (x : Word), s.afterReads x 0 = s ∧ s.afterReads x (n + 1) = (s.afterRead x).afterReads (x + 1) n) ∧
    (s.run = .halted ∨ s.run = .stopped ∨ s.run = .faulted → step s = .next s)

/-- O45: Every step from every state gives a next state; the fatal fault is one, FAULTED, by the model's choice (log entry 5). Basis: derived (60_exceptions.md R230, R232, 40_dispatch.md R80, R83). -/
def Obligations.StepAlwaysCompletes : Prop :=
  (∀ (s : State), ∃ t, step s = .next t) ∧ ∀ (n : Nat) (s : State), ∃ t, Host.Core.run Sys2Proof.core n s = .next t

/-- O46: A RUNNING step ends FAULTED exactly when the opcode at PC is undefined or is HALT or STOP under a fault parameter. Basis: derived (60_exceptions.md R230, R234, 30_encoding.md R67, 47_misc.md R196, R197, 92_eei_decisions.md D1, D5, D6, D8). -/
def Obligations.FaultedExactlyByFaultingOpcodes : Prop :=
  ∀ (s t : State), s.run = .running → step s = .next t →
    (t.run = .faulted ↔ opcodeFaults s.params (s.read s.pc)) ∧
    (t.run = .faulted → t.faultRec = some ⟨s.read s.pc, s.pc⟩ ∧ t.pc = s.pc + 1 ∧
      KeepsExcept [.pc, .run, .faultRec] (s.afterRead s.pc) t)

/-- O47: From HALTED, STOPPED or FAULTED no number of steps changes anything. Basis: derived (10_state.md R29 (decisions D5, D6, D8), 60_exceptions.md R230, R242). -/
def Obligations.WaitAndFaultStatesAreTerminal : Prop :=
  ∀ (n : Nat) (s : State), s.run ≠ .running → Host.Core.run Sys2Proof.core n s = .next s

/-- O48: The invariant holds at reset and after construction from any boot image. Basis: derived (10_state.md R23, R30, R32, 20_memory.md R47). -/
def Obligations.InvariantAtReset : Prop :=
  Inv State.reset ∧
    ∀ (boot : List Byte) (params : Params) (s : State), State.construct boot params = .next s → Inv s

/-- O49: Every step keeps: the low nibble of F is 0, memory is canonical, a fault record exists exactly while FAULTED. Basis: derived (10_state.md R23, R29, R30, 60_exceptions.md R230). -/
def Obligations.InvariantKeptByEveryStep : Prop :=
  ∀ (s t : State), Inv s → step s = .next t → Inv t

/-- O50: No step changes the boot image or unmapped space of RefMap, or (the model's choice, log entries 2 and 4) the bus or the parameters. Basis: derived (00_scope.md R9, 20_memory.md R43, R44 (decision D4), R48, 92_eei_decisions.md D4). -/
def Obligations.UnwritableMemoryNeverChanges : Prop :=
  ∀ (s t : State), step s = .next t →
    (s.mem.bus = .refMap → ∀ x, storesAt .refMap x = false →
      t.read x = s.read x ∧ (0x00FF < x.toNat → t.read x = 0xFF#8)) ∧
    t.mem.bus = s.mem.bus ∧ t.params = s.params

/-- O51: IME influences nothing but itself, and only DI, EI and RETI change it. Basis: derived (10_state.md R28 (decision D7), 60_exceptions.md R233). -/
def Obligations.InterruptHookIsNeverRead : Prop :=
  ∀ (s : State) (v : Bool),
    (∃ t u, step s = .next t ∧ step (s.setIme v) = .next u ∧ u.setIme false = t.setIme false) ∧
    (∀ t, step s = .next t → t.ime ≠ s.ime → s.fetchInstr = .di ∨ s.fetchInstr = .ei ∨ s.fetchInstr = .reti)

/-- O52: RefMap: the boot image reads its bytes and drops writes (decision D4 of the spec); WRAM is storage by the low 13 address bits. Basis: derived (20_memory.md R43, R44 (decision D4), R45 (derived from R43), 92_eei_decisions.md D4). -/
def Obligations.BootImageAndWorkingRam : Prop :=
  ∀ (m : Memory) (x : Word) (v : Byte), m.bus = .refMap →
    (x.toNat ≤ 0x00FF → m.read x = bootByte m x.toNat ∧ m.write x v = m) ∧
    (0xC000 ≤ x.toNat ∧ x.toNat ≤ 0xDFFF →
      m.read x = wramByte m (x &&& 0x1FFF#16).toNat ∧ wramByte (m.write x v) (x &&& 0x1FFF#16).toNat = v ∧
      SameBusBytes m (m.write x v) (some (x &&& 0x1FFF#16).toNat) none)

/-- O53: RefMap: HRAM is storage by the low 7 address bits; unmapped space, 0xFFFF among it, reads 0xFF and drops writes. Basis: stated (R46, R48). -/
def Obligations.HighRamAndUnmappedSpace : Prop :=
  ∀ (m : Memory) (x : Word) (v : Byte), m.bus = .refMap →
    (0xFF80 ≤ x.toNat ∧ x.toNat ≤ 0xFFFE →
      (x &&& 0x7F#16).toNat ≤ 0x7E ∧
      m.read x = hramByte m (x &&& 0x7F#16).toNat ∧ hramByte (m.write x v) (x &&& 0x7F#16).toNat = v ∧
      SameBusBytes m (m.write x v) none (some (x &&& 0x7F#16).toNat)) ∧
    (0x0100 ≤ x.toNat ∧ x.toNat ≤ 0xBFFF ∨ 0xE000 ≤ x.toNat ∧ x.toNat ≤ 0xFF7F ∨ x.toNat = 0xFFFF →
      m.read x = 0xFF#8 ∧ m.write x v = m)

/-- O54: FlatRAM: every address reads back what was last written to it, and a write changes no other address. Basis: derived (20_memory.md R40 (decision D3)). -/
def Obligations.FlatRamStoresEveryAddress : Prop :=
  ∀ (m : Memory) (x y : Word) (v : Byte), m.bus = .flatRam →
    (m.write x v).read y = if y = x then v else m.read y

/-- O55: read16 is little-endian with wrap (low byte read first by decision D9, log entry 14), and reads back what write16 wrote where writes reach both bytes. Basis: derived (20_memory.md R41, R42, 20_memory.md R51 (derived from R41 and R43), 20_memory.md R57 (decision D9), 92_eei_decisions.md D9, 90_conflicts.md C3). -/
def Obligations.WordAccessIsLittleEndian : Prop :=
  ∀ (s : State) (x v : Word),
    (s.read16 x).toNat = 256 * ((s.afterRead x).read (x + 1)).toNat + (s.read x).toNat ∧
    s.afterRead16 x = (s.afterRead x).afterRead (x + 1) ∧
    StoresWord s (s.write16 x v) x v ∧ v.toNat = 256 * (hiByte v).toNat + (loByte v).toNat ∧
    (storesAt s.mem.bus x = true → storesAt s.mem.bus (x + 1) = true → (s.write16 x v).read16 x = v)

/-- O56: State.reset is the reset table: PC 0x0100, all other registers 0, IME 0, RUNNING; boot image zero by the model's choice, log entry 1. Basis: derived (10_state.md R32 (decisions D7, D8, D15), 20_memory.md R47, 00_scope.md R9). -/
def Obligations.ResetValues : Prop :=
  State.reset.pc = 0x0100#16 ∧ State.reset.sp = 0 ∧ State.reset.a = 0 ∧ State.reset.f = 0 ∧ State.reset.b = 0 ∧
    State.reset.c = 0 ∧ State.reset.d = 0 ∧ State.reset.e = 0 ∧ State.reset.h = 0 ∧ State.reset.l = 0 ∧
    State.reset.ime = false ∧ State.reset.run = .running ∧ State.reset.faultRec = none ∧ State.reset.mem.bus = .refMap ∧
    State.reset.params.pHalt = .haltStops ∧ State.reset.params.pStop = .stopStops ∧
    (∀ x : Word, State.reset.read x = if x.toNat ≤ 0x00FF ∨ storesAt .refMap x = true then 0x00#8 else 0xFF#8)

/-- O57: Construction needs exactly 256 bytes and then gives the reset state with that boot image. Basis: derived (70_reset_and_hazards.md R250 (decisions D7, D15, D16), 60_exceptions.md R231, 20_memory.md R47). -/
def Obligations.ConstructionFromBootImage : Prop :=
  ∀ (boot : List Byte) (params : Params),
    (boot.length = 256 →
      ∃ s, State.construct boot params = .next s ∧ s = State.resetOn s.mem params ∧ s.mem.bus = .refMap ∧
        ∀ x : Word, s.read x = if x.toNat ≤ 0x00FF then boot.getD x.toNat 0 else State.reset.read x) ∧
    (boot.length ≠ 256 → State.construct boot params = .fault (.bootImageSize boot.length))

/-- O58: From reset with any boot image the first step runs RST 0x38 out of unmapped 0x0100. Basis: derived (70_reset_and_hazards.md R251 (derived from R32, R43, R48, R182)). -/
def Obligations.FirstStepIsRestart : Prop :=
  ∀ (boot : List Byte) (params : Params) (s : State), State.construct boot params = .next s →
    ∃ t, step s = .next t ∧ t.sp = 0xFFFE#16 ∧ t.pc = 0x0038#16 ∧
      (∀ x, t.read x = if x = 0xFFFE#16 then 0x01#8 else s.read x) ∧ KeepsExcept [.sp, .pc, .memory] s t

/-- O59: RefMap and FlatRAM are changed by no read; a supplied bus (left free, log entries 2 and 14) takes each read and write itself, low byte first (D9). Basis: derived (00_scope.md R7, R9 (decision D3), 20_memory.md R40 (decision D3), R41, R50 (decision D10), R57 (decision D9), 60_exceptions.md R239 (decision D3), 92_eei_decisions.md D3, D9). -/
def Obligations.SuppliedBusAnswersEveryAccess : Prop :=
  ∀ (m : Memory) (x v : Word) (b : Byte) (n : Nat),
    (m.bus = .refMap ∨ m.bus = .flatRam → m.afterRead x = m ∧ m.afterRead16 x = m ∧ m.afterReads x n = m) ∧
    ∀ k, m.bus = .supplied k →
      m.read x = Config.busRead k m.cells x ∧
      m.afterRead x = { m with cells := Config.busAfterRead k m.cells x } ∧
      m.write x b = { m with cells := Config.busWrite k m.cells x b } ∧
      m.read16 x = word (Config.busRead k (Config.busAfterRead k m.cells x) (x + 1)) (Config.busRead k m.cells x) ∧
      m.afterRead16 x = { m with cells := Config.busAfterRead k (Config.busAfterRead k m.cells x) (x + 1) } ∧
      m.write16 x v =
        { m with cells := Config.busWrite k (Config.busWrite k m.cells x (loByte v)) (x + 1) (hiByte v) }

/-- O60: The core reaches memory only through read and write: over a bus that answers alike, every run is the same but for the bus. Basis: derived (00_scope.md R7, R9 (decision D3), 20_memory.md R40 (decision D3), R50 (decision D10), R53, 60_exceptions.md R239 (decision D3)). -/
def Obligations.BusSubstitution : Prop :=
  ∀ (R : Memory → Memory → Prop),
    (∀ m m', R m m' → (∀ x, m.read x = m'.read x) ∧ (∀ x, R (m.afterRead x) (m'.afterRead x)) ∧
      ∀ x v, R (m.write x v) (m'.write x v)) →
    ∀ (n : Nat) (s : State) (m' : Memory), R s.mem m' →
      (∃ t n', step s = .next t ∧ step { s with mem := m' } = .next { t with mem := n' } ∧ R t.mem n') ∧
      ∃ t n', Host.Core.run Sys2Proof.core n s = .next t ∧
        Host.Core.run Sys2Proof.core n ({ s with mem := m' } : State) = .next { t with mem := n' } ∧ R t.mem n'
end

