-- ==== Sys2Proof/Laws/Decode.lean ====
section
/-! SUPPORT. What the decoder does with the bytes of an instruction of each length, and the operand tables of spec/30_encoding.md R63
read both ways. -/

namespace Sys2Proof

/-- An instruction of one byte is decoded and its byte consumed. -/
theorem decode_one (op : Byte) (rest : List Byte) (h : lengthOf op = 1) :
    decode (op :: rest) = .ok (decodeOp op (rest.getD 0 0) (rest.getD 1 0), rest) := by
  simp [decode, h]

/-- An instruction of two bytes is decoded and both consumed. -/
theorem decode_two (op n1 : Byte) (rest : List Byte) (h : lengthOf op = 2) :
    decode (op :: n1 :: rest) = .ok (decodeOp op n1 (rest.getD 0 0), rest) := by
  simp [decode, h]

/-- An instruction of three bytes is decoded and all consumed. -/
theorem decode_three (op n1 n2 : Byte) (rest : List Byte) (h : lengthOf op = 3) :
    decode (op :: n1 :: n2 :: rest) = .ok (decodeOp op n1 n2, rest) := by
  simp [decode, h]

/-- The length of an instruction is 1, 2 or 3 (R60). -/
theorem lengthOf_cases (op : Byte) : lengthOf op = 1 ∨ lengthOf op = 2 ∨ lengthOf op = 3 := by
  unfold lengthOf; split
  · simp
  · split <;> simp

/-- A function of what a secondary byte selects is the selection of the function's values. -/
theorem cbSelect_map {α β : Type} (g : α → β) (rlc rrc rl rr sla sra swap srl : R8 → α) (bit res set : BitVec 3 → R8 → α)
    (op2 : Byte) :
    g (cbSelect rlc rrc rl rr sla sra swap srl bit res set op2) =
      cbSelect (fun r => g (rlc r)) (fun r => g (rrc r)) (fun r => g (rl r)) (fun r => g (rr r)) (fun r => g (sla r))
        (fun r => g (sra r)) (fun r => g (swap r)) (fun r => g (srl r)) (fun b r => g (bit b r)) (fun b r => g (res b r))
        (fun b r => g (set b r)) op2 := by
  unfold cbSelect; dsimp only
  split
  · split <;> rfl
  all_goals rfl

/-- What holds of every row of the secondary space holds of the row a secondary byte selects. -/
theorem cbSelect_all {α : Type} (p : α → Prop) (rlc rrc rl rr sla sra swap srl : R8 → α) (bit res set : BitVec 3 → R8 → α)
    (op2 : Byte) (h : ∀ r, p (rlc r) ∧ p (rrc r) ∧ p (rl r) ∧ p (rr r) ∧ p (sla r) ∧ p (sra r) ∧ p (swap r) ∧ p (srl r))
    (hb : ∀ b r, p (bit b r) ∧ p (res b r) ∧ p (set b r)) :
    p (cbSelect rlc rrc rl rr sla sra swap srl bit res set op2) := by
  have h := h (R8.ofIdx (opZ op2))
  have hb := hb (opY op2) (R8.ofIdx (opZ op2))
  unfold cbSelect; dsimp only
  split
  · split <;> simp only [h]
  all_goals simp only [hb]

@[simp] theorem R8.ofIdx_idx (r : R8) : R8.ofIdx r.idx = r := by cases r <;> rfl
@[simp] theorem RR.ofIdx_idx (r : RR) : RR.ofIdx r.idx = r := by cases r <;> rfl
@[simp] theorem RStk.ofIdx_idx (r : RStk) : RStk.ofIdx r.idx = r := by cases r <;> rfl
@[simp] theorem Cond.ofIdx_idx (r : Cond) : Cond.ofIdx r.idx = r := by cases r <;> rfl
@[simp] theorem R8.idx_ofIdx (i : BitVec 3) : (R8.ofIdx i).idx = i := by revert i; decide
@[simp] theorem RR.idx_ofIdx (i : BitVec 2) : (RR.ofIdx i).idx = i := by revert i; decide
@[simp] theorem RStk.idx_ofIdx (i : BitVec 2) : (RStk.ofIdx i).idx = i := by revert i; decide
@[simp] theorem Cond.idx_ofIdx (i : BitVec 2) : (Cond.ofIdx i).idx = i := by revert i; decide

end Sys2Proof
end

