-- ==== Sys2Proof/Laws/Memory.lean ====
section
/-! SUPPORT. The laws of memory: what a read gives after a write or a load, what reads leave, that every memory operation keeps the
canonical form and the bus, and what a constructed boot image reads as. -/

namespace Sys2Proof.Machine

open Sys2Proof.Safety

/-! ## Lists of cells -/

theorem cellsGet_insert (k k' : Nat) (v : Byte) (cells : List Host.Cell) :
    cellsGet k' (cellsInsert k v cells) = if k' = k then some v else cellsGet k' cells := by
  induction cells with
  | nil => simp [cellsInsert, cellsGet, eq_comm]
  | cons cell rest ih =>
    simp only [cellsInsert]
    split
    · simp [cellsGet, eq_comm]
    · split
      · rename_i h; subst h; by_cases hk : k' = cell.1 <;> simp [cellsGet, hk, eq_comm]
      · rename_i h; simp only [cellsGet, ih]; by_cases hc : cell.1 = k' <;> simp [hc]
        intro h'; subst h'; exact absurd hc.symm h

theorem cellsGet_filter (k k' : Nat) (cells : List Host.Cell) :
    cellsGet k' (cells.filter (fun cell => cell.1 ≠ k)) = if k' = k then none else cellsGet k' cells := by
  induction cells with
  | nil => simp [cellsGet]
  | cons cell rest ih =>
    by_cases hc : cell.1 = k
    · rw [List.filter_cons_of_neg (by simp [hc]), ih]
      by_cases hk : k' = k
      · simp [hk]
      · simp [cellsGet, hc, hk, Ne.symm hk]
    · rw [List.filter_cons_of_pos (by simp [hc])]
      simp only [cellsGet, ih]
      by_cases hk : cell.1 = k'
      · simp [hk, show k' ≠ k from fun h => hc (hk.trans h)]
      · simp [hk]

/-- A cell that is set reads as it was set, any other as before; an unlisted cell reads as the default. -/
theorem cellsGet_set (k k' : Nat) (v dflt : Byte) (cells : List Host.Cell) :
    (cellsGet k' (cellsSet k v dflt cells)).getD dflt = if k' = k then v else (cellsGet k' cells).getD dflt := by
  unfold cellsSet
  split
  · rename_i h; rw [cellsGet_filter]; by_cases hk : k' = k <;> simp [hk, h]
  · rw [cellsGet_insert]; by_cases hk : k' = k <;> simp [hk]

theorem cellsInsert_all (k : Nat) (v : Byte) (p : Host.Cell → Bool) (cells : List Host.Cell)
    (hv : p (k, v) = true) (h : cells.all p = true) : (cellsInsert k v cells).all p = true := by
  induction cells with
  | nil => simp [cellsInsert, hv]
  | cons cell rest ih =>
    simp only [List.all_cons, Bool.and_eq_true] at h
    simp only [cellsInsert]
    split
    · simp [hv, h.1, h.2]
    · split
      · simp [hv, h.2]
      · simp [h.1, ih h.2]

theorem cellsInsert_rising (k : Nat) (v : Byte) (cells : List Host.Cell) (h : cellsRising cells = true) :
    cellsRising (cellsInsert k v cells) = true := by
  induction cells with
  | nil => simp [cellsInsert, cellsRising]
  | cons cell rest ih =>
    simp only [cellsRising, Bool.and_eq_true] at h
    simp only [cellsInsert]
    split
    · rename_i hk
      simp only [cellsRising, List.all_cons, Bool.and_eq_true, decide_eq_true_eq, List.all_eq_true] at h ⊢
      exact ⟨⟨hk, fun x hx => Nat.lt_trans hk (by simpa using h.1 x hx)⟩, h⟩
    · split
      · rename_i hk; subst hk; simpa only [cellsRising, Bool.and_eq_true] using h
      · rename_i hlt hne
        simp only [cellsRising, Bool.and_eq_true]
        refine ⟨cellsInsert_all _ _ _ _ ?_ h.1, ih h.2⟩
        simp only [decide_eq_true_eq]; omega

theorem cellsRising_filter (p : Host.Cell → Bool) (cells : List Host.Cell) (h : cellsRising cells = true) :
    cellsRising (cells.filter p) = true := by
  induction cells with
  | nil => simp [cellsRising]
  | cons cell rest ih =>
    simp only [cellsRising, Bool.and_eq_true, List.all_eq_true] at h
    by_cases hp : p cell = true
    · simp only [List.filter_cons, hp, if_true, cellsRising, Bool.and_eq_true, List.all_eq_true]
      exact ⟨fun x hx => h.1 x (List.mem_filter.mp hx).1, ih h.2⟩
    · simp only [List.filter_cons, hp]
      exact ih h.2

/-- Setting a cell keeps the addresses rising and every property its cells have, if the new cell has it where it is listed. -/
theorem cellsSet_keeps (k : Nat) (v dflt : Byte) (p : Host.Cell → Bool) (cells : List Host.Cell)
    (hr : cellsRising cells = true) (hp : cells.all p = true) (hv : v ≠ dflt → p (k, v) = true) :
    cellsRising (cellsSet k v dflt cells) = true ∧ (cellsSet k v dflt cells).all p = true := by
  unfold cellsSet
  split
  · exact ⟨cellsRising_filter _ _ hr, List.all_eq_true.mpr fun x hx =>
      List.all_eq_true.mp hp x (List.mem_filter.mp hx).1⟩
  · rename_i h; exact ⟨cellsInsert_rising _ _ _ hr, cellsInsert_all _ _ _ _ (hv h) hp⟩

/-! ## Memory -/

@[simp] theorem Memory.cellLoad_bus (m : Memory) (x : Word) (v : Byte) : (m.cellLoad x v).bus = m.bus := by
  unfold Memory.cellLoad; split <;> rfl

@[simp] theorem Memory.load_bus (m : Memory) (x : Word) (v : Byte) : (m.load x v).bus = m.bus := by
  unfold Memory.load; split <;> simp [Memory.busWrite]

@[simp] theorem Memory.write_bus (m : Memory) (x : Word) (v : Byte) : (m.write x v).bus = m.bus := by
  unfold Memory.write; repeat' split
  all_goals simp [Memory.busWrite]

@[simp] theorem Memory.write16_bus (m : Memory) (x v : Word) : (m.write16 x v).bus = m.bus := by
  simp [Memory.write16]

@[simp] theorem Memory.afterRead_bus (m : Memory) (x : Word) : (m.afterRead x).bus = m.bus := by
  unfold Memory.afterRead; split <;> rfl

@[simp] theorem Memory.afterReads_bus (m : Memory) (x : Word) (n : Nat) : (m.afterReads x n).bus = m.bus := by
  induction n generalizing m x with
  | zero => rfl
  | succ n ih => exact (ih _ _).trans (by simp)

@[simp] theorem Memory.afterRead16_bus (m : Memory) (x : Word) : (m.afterRead16 x).bus = m.bus := by
  simp [Memory.afterRead16]

/-- A region a write reaches is backed. -/
theorem Region.backed_of_writable (r : Region) (h : r.writable = true) : r.backed = true := by
  cases r <;> simp_all [Region.writable, Region.backed]

/-- The regions a write reaches are those `storesAt` names. -/
theorem writable_eq_storesAt (bus : BusKind) (x : Word) : (busRegion bus x).writable = storesAt bus x := by
  cases bus with
  | flatRam => rfl
  | supplied => rfl
  | refMap =>
    simp only [busRegion, storesAt]
    split
    · simp only [Region.writable]; symm; simp only [decide_eq_false_iff_not]; omega
    · split
      · simp only [Region.writable]; symm; simp only [decide_eq_true_eq]; omega
      · split
        · simp only [Region.writable]; symm; simp only [decide_eq_true_eq]; omega
        · simp only [Region.writable]; symm; simp only [decide_eq_false_iff_not]; omega

/-- Where a write is known to reach storage, the bus is not a supplied one. -/
theorem not_supplied_of_storesAt (bus : BusKind) (x : Word) (h : storesAt bus x = true) (k : Nat) : bus ≠ .supplied k := by
  rintro rfl; cases h

/-- What a read of the cells gives after a load: the byte loaded where the address is backed, else as before. -/
theorem Memory.cellRead_cellLoad (m : Memory) (x y : Word) (v : Byte) :
    (m.cellLoad x v).cellRead y = if y = x ∧ (busRegion m.bus x).backed = true then v else m.cellRead y := by
  unfold Memory.cellRead
  rw [Memory.cellLoad_bus]
  by_cases hx : (busRegion m.bus x).backed = true
  · by_cases hy : (busRegion m.bus y).backed = true
    · have hu : busUnlisted m.bus x = busUnlisted m.bus y := by simp [busUnlisted, hx, hy]
      simp only [hx, hy, if_true, Memory.cellLoad, hu, cellsGet_set, and_true, BitVec.toNat_inj]
    · have : y ≠ x := fun h => hy (h ▸ hx)
      simp [hy, this]
  · simp [Memory.cellLoad, hx]

/-- A bus that is not supplied reads its cells. -/
theorem Memory.read_cells (m : Memory) (x : Word) (hb : ∀ k, m.bus ≠ .supplied k) : m.read x = m.cellRead x := by
  unfold Memory.read; split
  · rfl
  · rfl
  · rename_i k h; exact absurd h (hb k)

/-- A bus that is not supplied loads a byte into its cells. -/
theorem Memory.load_cells (m : Memory) (x : Word) (v : Byte) (hb : ∀ k, m.bus ≠ .supplied k) : m.load x v = m.cellLoad x v := by
  unfold Memory.load; split
  · rfl
  · rfl
  · rename_i k h; exact absurd h (hb k)

/-- A bus that is not supplied writes its cells where `storesAt` says so, and nothing elsewhere. -/
theorem Memory.write_cells (m : Memory) (x : Word) (v : Byte) (hb : ∀ k, m.bus ≠ .supplied k) :
    m.write x v = if storesAt m.bus x = true then m.cellLoad x v else m := by
  rw [← writable_eq_storesAt]; unfold Memory.write; split
  · rfl
  · rename_i h; simp [busRegion, Region.writable, h]
  · rename_i k h; exact absurd h (hb k)

/-- A supplied bus answers a read itself. -/
theorem Memory.read_supplied (m : Memory) (k : Nat) (x : Word) (hb : m.bus = .supplied k) : m.read x = Config.busRead k m.cells x := by
  simp only [Memory.read, hb]

/-- A supplied bus takes a write itself. -/
theorem Memory.write_supplied (m : Memory) (k : Nat) (x : Word) (v : Byte) (hb : m.bus = .supplied k) :
    m.write x v = m.busWrite k x v := by
  simp only [Memory.write, hb]

/-- A supplied bus takes the low byte of a word, then the high byte. -/
theorem Memory.write16_supplied (m : Memory) (k : Nat) (x v : Word) (hb : m.bus = .supplied k) :
    m.write16 x v = (m.busWrite k x (loByte v)).busWrite k (x + 1) (hiByte v) := by
  rw [Memory.write16, Memory.write_supplied m k _ _ hb, Memory.write_supplied (m.busWrite k x (loByte v)) k _ _ hb]

/-- A read changes nothing of a bus that is not supplied (R50). -/
theorem Memory.afterRead_named (m : Memory) (x : Word) (hb : ∀ k, m.bus ≠ .supplied k) : m.afterRead x = m := by
  unfold Memory.afterRead; split
  · rfl
  · rfl
  · rename_i k h; exact absurd h (hb k)

/-- Nor do several reads. -/
theorem Memory.afterReads_named (m : Memory) (x : Word) (n : Nat) (hb : ∀ k, m.bus ≠ .supplied k) : m.afterReads x n = m := by
  induction n generalizing x with
  | zero => rfl
  | succ n ih => rw [Memory.afterReads, Memory.afterRead_named _ _ hb, ih]

/-- Nor does `read16`. -/
theorem Memory.afterRead16_named (m : Memory) (x : Word) (hb : ∀ k, m.bus ≠ .supplied k) : m.afterRead16 x = m := by
  rw [Memory.afterRead16, Memory.afterRead_named _ _ hb, Memory.afterRead_named _ _ hb]

/-- A supplied bus is left by a read as it says itself. -/
theorem Memory.afterRead_supplied (m : Memory) (k : Nat) (x : Word) (hb : m.bus = .supplied k) :
    m.afterRead x = { m with cells := Config.busAfterRead k m.cells x } := by
  simp only [Memory.afterRead, hb]

/-- `read16` of a bus that is not supplied is its two bytes. -/
theorem Memory.read16_named (m : Memory) (x : Word) (hb : ∀ k, m.bus ≠ .supplied k) :
    m.read16 x = word (m.read (x + 1)) (m.read x) := by
  rw [Memory.read16, Memory.afterRead_named _ _ hb]

/-- What a read gives after a load: the byte loaded where the address is backed, else as before. -/
theorem Memory.read_load (m : Memory) (x y : Word) (v : Byte) (hb : ∀ k, m.bus ≠ .supplied k) :
    (m.load x v).read y = if y = x ∧ (busRegion m.bus x).backed = true then v else m.read y := by
  rw [Memory.read_cells _ _ (by simpa using hb), Memory.read_cells _ _ hb, Memory.load_cells _ _ _ hb, Memory.cellRead_cellLoad]

/-- What a read gives after a bus write: the byte written where a write reaches the address, else as before. -/
theorem Memory.read_write (m : Memory) (x y : Word) (v : Byte) (hb : ∀ k, m.bus ≠ .supplied k) :
    (m.write x v).read y = if y = x ∧ storesAt m.bus x = true then v else m.read y := by
  rw [Memory.read_cells _ _ (by simpa using hb), Memory.read_cells _ _ hb, Memory.write_cells _ _ _ hb]
  by_cases hw : storesAt m.bus x = true
  · have := Region.backed_of_writable _ ((writable_eq_storesAt m.bus x).trans hw)
    simp only [hw, if_true, Memory.cellRead_cellLoad, this]
  · simp [hw]

/-- What a read of one byte gives after `write16`. -/
theorem Memory.read_write16 (m : Memory) (x v y : Word) (hb : ∀ k, m.bus ≠ .supplied k) :
    (m.write16 x v).read y =
      if y = x ∧ storesAt m.bus x = true then loByte v
      else if y = x + 1 ∧ storesAt m.bus (x + 1) = true then hiByte v
      else m.read y := by
  rw [Memory.write16, Memory.read_write _ _ _ _ (by simpa using hb), Memory.read_write _ _ _ _ hb, Memory.write_bus]
  by_cases h : y = x
  · subst h
    simp
  · simp [h]

/-- Loading a cell keeps the canonical form. -/
theorem Memory.cellLoad_wf (m : Memory) (x : Word) (v : Byte) (h : m.cellsWf = true) : (m.cellLoad x v).cellsWf = true := by
  unfold Memory.cellLoad
  split
  · rename_i hb
    unfold Memory.cellsWf at h ⊢
    simp only [Bool.and_eq_true] at h ⊢
    refine cellsSet_keeps _ _ _ _ _ h.1 h.2 fun hv => ?_
    simp [hb, hv, x.isLt]
  · exact h

/-- A memory whose bus is that of a well-formed one, and whose cells keep the canonical form, is well-formed. -/
theorem Memory.wf_of_cellsWf (m m' : Memory) (hb : m'.bus = m.bus) (hc : m.cellsWf = true → m'.cellsWf = true) (h : m.wf = true) :
    m'.wf = true := by
  unfold Memory.wf at h ⊢
  rw [hb]
  split at h
  · rfl
  · exact hc h
  · exact hc h

/-- A load keeps the canonical form. -/
theorem Memory.load_wf (m : Memory) (x : Word) (v : Byte) (h : m.wf = true) : (m.load x v).wf = true := by
  by_cases hb : ∃ k, m.bus = .supplied k
  · obtain ⟨k, hb⟩ := hb; simp [Memory.wf, hb]
  · rw [Memory.load_cells _ _ _ (fun k hk => hb ⟨k, hk⟩)]
    exact Memory.wf_of_cellsWf _ _ (by simp) (Memory.cellLoad_wf m x v) h

/-- A bus write keeps the canonical form. -/
theorem Memory.write_wf (m : Memory) (x : Word) (v : Byte) (h : m.wf = true) : (m.write x v).wf = true := by
  by_cases hb : ∃ k, m.bus = .supplied k
  · obtain ⟨k, hb⟩ := hb; simp [Memory.wf, hb]
  · rw [Memory.write_cells _ _ _ (fun k hk => hb ⟨k, hk⟩)]
    split
    · exact Memory.wf_of_cellsWf _ _ (by simp) (Memory.cellLoad_wf m x v) h
    · exact h

/-- `write16` keeps the canonical form. -/
theorem Memory.write16_wf (m : Memory) (x v : Word) (h : m.wf = true) : (m.write16 x v).wf = true :=
  Memory.write_wf _ _ _ (Memory.write_wf _ _ _ h)

/-- A read keeps the canonical form. -/
theorem Memory.afterRead_wf (m : Memory) (x : Word) (h : m.wf = true) : (m.afterRead x).wf = true := by
  by_cases hb : ∃ k, m.bus = .supplied k
  · obtain ⟨k, hb⟩ := hb; simp [Memory.wf, hb]
  · rw [Memory.afterRead_named _ _ (fun k hk => hb ⟨k, hk⟩)]; exact h

/-- What reads and writes of the bus can make of a memory, in any number and order. -/
inductive Memory.Accessed (m : Memory) : Memory → Prop where
  | refl : Memory.Accessed m m
  | read {m' : Memory} (x : Word) : Memory.Accessed m m' → Memory.Accessed m (m'.afterRead x)
  | write {m' : Memory} (x : Word) (v : Byte) : Memory.Accessed m m' → Memory.Accessed m (m'.write x v)

theorem Memory.Accessed.trans {m m' m'' : Memory} (h : Memory.Accessed m m') (h' : Memory.Accessed m' m'') : Memory.Accessed m m'' := by
  induction h' with
  | refl => exact h
  | read x _ ih => exact ih.read x
  | write x v _ ih => exact ih.write x v

theorem Memory.Accessed.read16 {m m' : Memory} (x : Word) (h : Memory.Accessed m m') : Memory.Accessed m (m'.afterRead16 x) :=
  (h.read x).read (x + 1)

theorem Memory.Accessed.write16 {m m' : Memory} (x v : Word) (h : Memory.Accessed m m') : Memory.Accessed m (m'.write16 x v) :=
  (h.write x (loByte v)).write (x + 1) (hiByte v)

theorem Memory.Accessed.reads (m : Memory) (x : Word) (n : Nat) : Memory.Accessed m (m.afterReads x n) := by
  induction n generalizing m x with
  | zero => exact .refl
  | succ n ih => exact (Memory.Accessed.refl.read x).trans (ih _ _)

/-- Accesses keep the bus. -/
theorem Memory.Accessed.bus {m m' : Memory} (h : Memory.Accessed m m') : m'.bus = m.bus := by
  induction h with
  | refl => rfl
  | read x _ ih => simpa using ih
  | write x v _ ih => simpa using ih

/-- Accesses keep the canonical form. -/
theorem Memory.Accessed.wf {m m' : Memory} (h : Memory.Accessed m m') (hw : m.wf = true) : m'.wf = true := by
  induction h with
  | refl => exact hw
  | read x _ ih => exact Memory.afterRead_wf _ _ ih
  | write x v _ ih => exact Memory.write_wf _ _ _ ih

/-- On a bus that is not supplied, no accesses change a byte that writes do not reach. -/
theorem Memory.Accessed.unwritable {m m' : Memory} (h : Memory.Accessed m m') (hb : ∀ k, m.bus ≠ .supplied k) (y : Word)
    (hy : storesAt m.bus y = false) : m'.read y = m.read y := by
  induction h with
  | refl => rfl
  | read x h ih => rw [Memory.afterRead_named _ _ (by rw [h.bus]; exact hb)]; exact ih
  | write x v h ih =>
    rw [Memory.read_write _ _ _ _ (by rw [h.bus]; exact hb), h.bus, ih]
    split
    · rename_i hx; rw [hx.1, hx.2] at hy; cases hy
    · rfl

/-- The reset memory is in canonical form. -/
theorem State.reset_mem_wf : State.reset.mem.wf = true := by decide

/-- What the cells of a boot image give, at an address from its first on. -/
theorem cellsGet_bootCells (boot : List Byte) (k j : Nat) :
    (cellsGet (k + j) (bootCells k boot)).getD 0 = boot.getD j 0 := by
  induction boot generalizing k j with
  | nil => simp [bootCells, cellsGet]
  | cons v rest ih =>
    have below : ∀ (l : List Byte) (n i : Nat), n < i → cellsGet n (bootCells i l) = none := by
      intro l
      induction l with
      | nil => intros; rfl
      | cons w l ihl =>
        intro n i hn
        have hn' : n < i + 1 := by omega
        simp only [bootCells]; split
        · exact ihl n (i + 1) hn'
        · have hne : i ≠ n := by omega
          simp [cellsGet, ihl n (i + 1) hn', hne]
    cases j with
    | zero =>
      by_cases hv : v = 0#8 <;> simp [bootCells, cellsGet, hv, below rest k (k + 1) (by omega)]
    | succ j =>
      have e : k + (j + 1) = (k + 1) + j := by omega
      have hne : k ≠ k + 1 + j := by omega
      by_cases hv : v = 0#8
      · simpa [bootCells, hv, e] using ih (k + 1) j
      · simpa [bootCells, hv, e, cellsGet, hne] using ih (k + 1) j

end Sys2Proof.Machine
end

