-- ==== Sys2Proof/Laws/State.lean ====
section
/-! SUPPORT. What each field reads after each update of the state, true by definition, so that no proof unfolds a record update. -/

namespace Sys2Proof.Machine

/-! `write` -/

@[simp] theorem State.write_a (s : State) (x : Word) (v : Byte) : (s.write x v).a = s.a := rfl
@[simp] theorem State.write_f (s : State) (x : Word) (v : Byte) : (s.write x v).f = s.f := rfl
@[simp] theorem State.write_b (s : State) (x : Word) (v : Byte) : (s.write x v).b = s.b := rfl
@[simp] theorem State.write_c (s : State) (x : Word) (v : Byte) : (s.write x v).c = s.c := rfl
@[simp] theorem State.write_d (s : State) (x : Word) (v : Byte) : (s.write x v).d = s.d := rfl
@[simp] theorem State.write_e (s : State) (x : Word) (v : Byte) : (s.write x v).e = s.e := rfl
@[simp] theorem State.write_h (s : State) (x : Word) (v : Byte) : (s.write x v).h = s.h := rfl
@[simp] theorem State.write_l (s : State) (x : Word) (v : Byte) : (s.write x v).l = s.l := rfl
@[simp] theorem State.write_sp (s : State) (x : Word) (v : Byte) : (s.write x v).sp = s.sp := rfl
@[simp] theorem State.write_pc (s : State) (x : Word) (v : Byte) : (s.write x v).pc = s.pc := rfl
@[simp] theorem State.write_ime (s : State) (x : Word) (v : Byte) : (s.write x v).ime = s.ime := rfl
@[simp] theorem State.write_run (s : State) (x : Word) (v : Byte) : (s.write x v).run = s.run := rfl
@[simp] theorem State.write_faultRec (s : State) (x : Word) (v : Byte) : (s.write x v).faultRec = s.faultRec := rfl
@[simp] theorem State.write_mem (s : State) (x : Word) (v : Byte) : (s.write x v).mem = s.mem.write x v := rfl
@[simp] theorem State.write_params (s : State) (x : Word) (v : Byte) : (s.write x v).params = s.params := rfl

/-! `write16` -/

@[simp] theorem State.write16_a (s : State) (x v : Word) : (s.write16 x v).a = s.a := rfl
@[simp] theorem State.write16_f (s : State) (x v : Word) : (s.write16 x v).f = s.f := rfl
@[simp] theorem State.write16_b (s : State) (x v : Word) : (s.write16 x v).b = s.b := rfl
@[simp] theorem State.write16_c (s : State) (x v : Word) : (s.write16 x v).c = s.c := rfl
@[simp] theorem State.write16_d (s : State) (x v : Word) : (s.write16 x v).d = s.d := rfl
@[simp] theorem State.write16_e (s : State) (x v : Word) : (s.write16 x v).e = s.e := rfl
@[simp] theorem State.write16_h (s : State) (x v : Word) : (s.write16 x v).h = s.h := rfl
@[simp] theorem State.write16_l (s : State) (x v : Word) : (s.write16 x v).l = s.l := rfl
@[simp] theorem State.write16_sp (s : State) (x v : Word) : (s.write16 x v).sp = s.sp := rfl
@[simp] theorem State.write16_pc (s : State) (x v : Word) : (s.write16 x v).pc = s.pc := rfl
@[simp] theorem State.write16_ime (s : State) (x v : Word) : (s.write16 x v).ime = s.ime := rfl
@[simp] theorem State.write16_run (s : State) (x v : Word) : (s.write16 x v).run = s.run := rfl
@[simp] theorem State.write16_faultRec (s : State) (x v : Word) : (s.write16 x v).faultRec = s.faultRec := rfl
@[simp] theorem State.write16_mem (s : State) (x v : Word) : (s.write16 x v).mem = s.mem.write16 x v := rfl
@[simp] theorem State.write16_params (s : State) (x v : Word) : (s.write16 x v).params = s.params := rfl

/-! `afterRead` -/

@[simp] theorem State.afterRead_a (s : State) (x : Word) : (s.afterRead x).a = s.a := rfl
@[simp] theorem State.afterRead_f (s : State) (x : Word) : (s.afterRead x).f = s.f := rfl
@[simp] theorem State.afterRead_b (s : State) (x : Word) : (s.afterRead x).b = s.b := rfl
@[simp] theorem State.afterRead_c (s : State) (x : Word) : (s.afterRead x).c = s.c := rfl
@[simp] theorem State.afterRead_d (s : State) (x : Word) : (s.afterRead x).d = s.d := rfl
@[simp] theorem State.afterRead_e (s : State) (x : Word) : (s.afterRead x).e = s.e := rfl
@[simp] theorem State.afterRead_h (s : State) (x : Word) : (s.afterRead x).h = s.h := rfl
@[simp] theorem State.afterRead_l (s : State) (x : Word) : (s.afterRead x).l = s.l := rfl
@[simp] theorem State.afterRead_sp (s : State) (x : Word) : (s.afterRead x).sp = s.sp := rfl
@[simp] theorem State.afterRead_pc (s : State) (x : Word) : (s.afterRead x).pc = s.pc := rfl
@[simp] theorem State.afterRead_ime (s : State) (x : Word) : (s.afterRead x).ime = s.ime := rfl
@[simp] theorem State.afterRead_run (s : State) (x : Word) : (s.afterRead x).run = s.run := rfl
@[simp] theorem State.afterRead_faultRec (s : State) (x : Word) : (s.afterRead x).faultRec = s.faultRec := rfl
@[simp] theorem State.afterRead_mem (s : State) (x : Word) : (s.afterRead x).mem = s.mem.afterRead x := rfl
@[simp] theorem State.afterRead_params (s : State) (x : Word) : (s.afterRead x).params = s.params := rfl

/-! `afterRead16` -/

@[simp] theorem State.afterRead16_a (s : State) (x : Word) : (s.afterRead16 x).a = s.a := rfl
@[simp] theorem State.afterRead16_f (s : State) (x : Word) : (s.afterRead16 x).f = s.f := rfl
@[simp] theorem State.afterRead16_b (s : State) (x : Word) : (s.afterRead16 x).b = s.b := rfl
@[simp] theorem State.afterRead16_c (s : State) (x : Word) : (s.afterRead16 x).c = s.c := rfl
@[simp] theorem State.afterRead16_d (s : State) (x : Word) : (s.afterRead16 x).d = s.d := rfl
@[simp] theorem State.afterRead16_e (s : State) (x : Word) : (s.afterRead16 x).e = s.e := rfl
@[simp] theorem State.afterRead16_h (s : State) (x : Word) : (s.afterRead16 x).h = s.h := rfl
@[simp] theorem State.afterRead16_l (s : State) (x : Word) : (s.afterRead16 x).l = s.l := rfl
@[simp] theorem State.afterRead16_sp (s : State) (x : Word) : (s.afterRead16 x).sp = s.sp := rfl
@[simp] theorem State.afterRead16_pc (s : State) (x : Word) : (s.afterRead16 x).pc = s.pc := rfl
@[simp] theorem State.afterRead16_ime (s : State) (x : Word) : (s.afterRead16 x).ime = s.ime := rfl
@[simp] theorem State.afterRead16_run (s : State) (x : Word) : (s.afterRead16 x).run = s.run := rfl
@[simp] theorem State.afterRead16_faultRec (s : State) (x : Word) : (s.afterRead16 x).faultRec = s.faultRec := rfl
@[simp] theorem State.afterRead16_mem (s : State) (x : Word) : (s.afterRead16 x).mem = s.mem.afterRead16 x := rfl
@[simp] theorem State.afterRead16_params (s : State) (x : Word) : (s.afterRead16 x).params = s.params := rfl

/-! `afterReads` -/

@[simp] theorem State.afterReads_a (s : State) (x : Word) (n : Nat) : (s.afterReads x n).a = s.a := rfl
@[simp] theorem State.afterReads_f (s : State) (x : Word) (n : Nat) : (s.afterReads x n).f = s.f := rfl
@[simp] theorem State.afterReads_b (s : State) (x : Word) (n : Nat) : (s.afterReads x n).b = s.b := rfl
@[simp] theorem State.afterReads_c (s : State) (x : Word) (n : Nat) : (s.afterReads x n).c = s.c := rfl
@[simp] theorem State.afterReads_d (s : State) (x : Word) (n : Nat) : (s.afterReads x n).d = s.d := rfl
@[simp] theorem State.afterReads_e (s : State) (x : Word) (n : Nat) : (s.afterReads x n).e = s.e := rfl
@[simp] theorem State.afterReads_h (s : State) (x : Word) (n : Nat) : (s.afterReads x n).h = s.h := rfl
@[simp] theorem State.afterReads_l (s : State) (x : Word) (n : Nat) : (s.afterReads x n).l = s.l := rfl
@[simp] theorem State.afterReads_sp (s : State) (x : Word) (n : Nat) : (s.afterReads x n).sp = s.sp := rfl
@[simp] theorem State.afterReads_pc (s : State) (x : Word) (n : Nat) : (s.afterReads x n).pc = s.pc := rfl
@[simp] theorem State.afterReads_ime (s : State) (x : Word) (n : Nat) : (s.afterReads x n).ime = s.ime := rfl
@[simp] theorem State.afterReads_run (s : State) (x : Word) (n : Nat) : (s.afterReads x n).run = s.run := rfl
@[simp] theorem State.afterReads_faultRec (s : State) (x : Word) (n : Nat) : (s.afterReads x n).faultRec = s.faultRec := rfl
@[simp] theorem State.afterReads_mem (s : State) (x : Word) (n : Nat) : (s.afterReads x n).mem = s.mem.afterReads x n := rfl
@[simp] theorem State.afterReads_params (s : State) (x : Word) (n : Nat) : (s.afterReads x n).params = s.params := rfl

/-! `afterGet8` -/

@[simp] theorem State.afterGet8_a (s : State) (r : R8) : (s.afterGet8 r).a = s.a := rfl
@[simp] theorem State.afterGet8_f (s : State) (r : R8) : (s.afterGet8 r).f = s.f := rfl
@[simp] theorem State.afterGet8_b (s : State) (r : R8) : (s.afterGet8 r).b = s.b := rfl
@[simp] theorem State.afterGet8_c (s : State) (r : R8) : (s.afterGet8 r).c = s.c := rfl
@[simp] theorem State.afterGet8_d (s : State) (r : R8) : (s.afterGet8 r).d = s.d := rfl
@[simp] theorem State.afterGet8_e (s : State) (r : R8) : (s.afterGet8 r).e = s.e := rfl
@[simp] theorem State.afterGet8_h (s : State) (r : R8) : (s.afterGet8 r).h = s.h := rfl
@[simp] theorem State.afterGet8_l (s : State) (r : R8) : (s.afterGet8 r).l = s.l := rfl
@[simp] theorem State.afterGet8_sp (s : State) (r : R8) : (s.afterGet8 r).sp = s.sp := rfl
@[simp] theorem State.afterGet8_pc (s : State) (r : R8) : (s.afterGet8 r).pc = s.pc := rfl
@[simp] theorem State.afterGet8_ime (s : State) (r : R8) : (s.afterGet8 r).ime = s.ime := rfl
@[simp] theorem State.afterGet8_run (s : State) (r : R8) : (s.afterGet8 r).run = s.run := rfl
@[simp] theorem State.afterGet8_faultRec (s : State) (r : R8) : (s.afterGet8 r).faultRec = s.faultRec := rfl
@[simp] theorem State.afterGet8_params (s : State) (r : R8) : (s.afterGet8 r).params = s.params := rfl

/-! `writeF` -/

@[simp] theorem State.writeF_a (s : State) (v : Byte) : (s.writeF v).a = s.a := rfl
@[simp] theorem State.writeF_f (s : State) (v : Byte) : (s.writeF v).f = v &&& 0xF0#8 := rfl
@[simp] theorem State.writeF_b (s : State) (v : Byte) : (s.writeF v).b = s.b := rfl
@[simp] theorem State.writeF_c (s : State) (v : Byte) : (s.writeF v).c = s.c := rfl
@[simp] theorem State.writeF_d (s : State) (v : Byte) : (s.writeF v).d = s.d := rfl
@[simp] theorem State.writeF_e (s : State) (v : Byte) : (s.writeF v).e = s.e := rfl
@[simp] theorem State.writeF_h (s : State) (v : Byte) : (s.writeF v).h = s.h := rfl
@[simp] theorem State.writeF_l (s : State) (v : Byte) : (s.writeF v).l = s.l := rfl
@[simp] theorem State.writeF_sp (s : State) (v : Byte) : (s.writeF v).sp = s.sp := rfl
@[simp] theorem State.writeF_pc (s : State) (v : Byte) : (s.writeF v).pc = s.pc := rfl
@[simp] theorem State.writeF_ime (s : State) (v : Byte) : (s.writeF v).ime = s.ime := rfl
@[simp] theorem State.writeF_run (s : State) (v : Byte) : (s.writeF v).run = s.run := rfl
@[simp] theorem State.writeF_faultRec (s : State) (v : Byte) : (s.writeF v).faultRec = s.faultRec := rfl
@[simp] theorem State.writeF_mem (s : State) (v : Byte) : (s.writeF v).mem = s.mem := rfl
@[simp] theorem State.writeF_params (s : State) (v : Byte) : (s.writeF v).params = s.params := rfl

/-! `setFlags` -/

@[simp] theorem State.setFlags_a (s : State) (z n h c : Bool) : (s.setFlags z n h c).a = s.a := rfl
@[simp] theorem State.setFlags_f (s : State) (z n h c : Bool) : (s.setFlags z n h c).f = packFlags z n h c &&& 0xF0#8 := rfl
@[simp] theorem State.setFlags_b (s : State) (z n h c : Bool) : (s.setFlags z n h c).b = s.b := rfl
@[simp] theorem State.setFlags_c (s : State) (z n h c : Bool) : (s.setFlags z n h c).c = s.c := rfl
@[simp] theorem State.setFlags_d (s : State) (z n h c : Bool) : (s.setFlags z n h c).d = s.d := rfl
@[simp] theorem State.setFlags_e (s : State) (z n h c : Bool) : (s.setFlags z n h c).e = s.e := rfl
@[simp] theorem State.setFlags_h (s : State) (z n h c : Bool) : (s.setFlags z n h c).h = s.h := rfl
@[simp] theorem State.setFlags_l (s : State) (z n h c : Bool) : (s.setFlags z n h c).l = s.l := rfl
@[simp] theorem State.setFlags_sp (s : State) (z n h c : Bool) : (s.setFlags z n h c).sp = s.sp := rfl
@[simp] theorem State.setFlags_pc (s : State) (z n h c : Bool) : (s.setFlags z n h c).pc = s.pc := rfl
@[simp] theorem State.setFlags_ime (s : State) (z n h c : Bool) : (s.setFlags z n h c).ime = s.ime := rfl
@[simp] theorem State.setFlags_run (s : State) (z n h c : Bool) : (s.setFlags z n h c).run = s.run := rfl
@[simp] theorem State.setFlags_faultRec (s : State) (z n h c : Bool) : (s.setFlags z n h c).faultRec = s.faultRec := rfl
@[simp] theorem State.setFlags_mem (s : State) (z n h c : Bool) : (s.setFlags z n h c).mem = s.mem := rfl
@[simp] theorem State.setFlags_params (s : State) (z n h c : Bool) : (s.setFlags z n h c).params = s.params := rfl

/-! `advance` -/

@[simp] theorem State.advance_a (s : State) (n : Nat) : (s.advance n).a = s.a := rfl
@[simp] theorem State.advance_f (s : State) (n : Nat) : (s.advance n).f = s.f := rfl
@[simp] theorem State.advance_b (s : State) (n : Nat) : (s.advance n).b = s.b := rfl
@[simp] theorem State.advance_c (s : State) (n : Nat) : (s.advance n).c = s.c := rfl
@[simp] theorem State.advance_d (s : State) (n : Nat) : (s.advance n).d = s.d := rfl
@[simp] theorem State.advance_e (s : State) (n : Nat) : (s.advance n).e = s.e := rfl
@[simp] theorem State.advance_h (s : State) (n : Nat) : (s.advance n).h = s.h := rfl
@[simp] theorem State.advance_l (s : State) (n : Nat) : (s.advance n).l = s.l := rfl
@[simp] theorem State.advance_sp (s : State) (n : Nat) : (s.advance n).sp = s.sp := rfl
@[simp] theorem State.advance_pc (s : State) (n : Nat) : (s.advance n).pc = s.pc + BitVec.ofNat 16 n := rfl
@[simp] theorem State.advance_ime (s : State) (n : Nat) : (s.advance n).ime = s.ime := rfl
@[simp] theorem State.advance_run (s : State) (n : Nat) : (s.advance n).run = s.run := rfl
@[simp] theorem State.advance_faultRec (s : State) (n : Nat) : (s.advance n).faultRec = s.faultRec := rfl
@[simp] theorem State.advance_mem (s : State) (n : Nat) : (s.advance n).mem = s.mem := rfl
@[simp] theorem State.advance_params (s : State) (n : Nat) : (s.advance n).params = s.params := rfl

/-! `jump` -/

@[simp] theorem State.jump_a (s : State) (x : Word) : (s.jump x).a = s.a := rfl
@[simp] theorem State.jump_f (s : State) (x : Word) : (s.jump x).f = s.f := rfl
@[simp] theorem State.jump_b (s : State) (x : Word) : (s.jump x).b = s.b := rfl
@[simp] theorem State.jump_c (s : State) (x : Word) : (s.jump x).c = s.c := rfl
@[simp] theorem State.jump_d (s : State) (x : Word) : (s.jump x).d = s.d := rfl
@[simp] theorem State.jump_e (s : State) (x : Word) : (s.jump x).e = s.e := rfl
@[simp] theorem State.jump_h (s : State) (x : Word) : (s.jump x).h = s.h := rfl
@[simp] theorem State.jump_l (s : State) (x : Word) : (s.jump x).l = s.l := rfl
@[simp] theorem State.jump_sp (s : State) (x : Word) : (s.jump x).sp = s.sp := rfl
@[simp] theorem State.jump_pc (s : State) (x : Word) : (s.jump x).pc = x := rfl
@[simp] theorem State.jump_ime (s : State) (x : Word) : (s.jump x).ime = s.ime := rfl
@[simp] theorem State.jump_run (s : State) (x : Word) : (s.jump x).run = s.run := rfl
@[simp] theorem State.jump_faultRec (s : State) (x : Word) : (s.jump x).faultRec = s.faultRec := rfl
@[simp] theorem State.jump_mem (s : State) (x : Word) : (s.jump x).mem = s.mem := rfl
@[simp] theorem State.jump_params (s : State) (x : Word) : (s.jump x).params = s.params := rfl

/-! `setIme` -/

@[simp] theorem State.setIme_a (s : State) (v : Bool) : (s.setIme v).a = s.a := rfl
@[simp] theorem State.setIme_f (s : State) (v : Bool) : (s.setIme v).f = s.f := rfl
@[simp] theorem State.setIme_b (s : State) (v : Bool) : (s.setIme v).b = s.b := rfl
@[simp] theorem State.setIme_c (s : State) (v : Bool) : (s.setIme v).c = s.c := rfl
@[simp] theorem State.setIme_d (s : State) (v : Bool) : (s.setIme v).d = s.d := rfl
@[simp] theorem State.setIme_e (s : State) (v : Bool) : (s.setIme v).e = s.e := rfl
@[simp] theorem State.setIme_h (s : State) (v : Bool) : (s.setIme v).h = s.h := rfl
@[simp] theorem State.setIme_l (s : State) (v : Bool) : (s.setIme v).l = s.l := rfl
@[simp] theorem State.setIme_sp (s : State) (v : Bool) : (s.setIme v).sp = s.sp := rfl
@[simp] theorem State.setIme_pc (s : State) (v : Bool) : (s.setIme v).pc = s.pc := rfl
@[simp] theorem State.setIme_ime (s : State) (v : Bool) : (s.setIme v).ime = v := rfl
@[simp] theorem State.setIme_run (s : State) (v : Bool) : (s.setIme v).run = s.run := rfl
@[simp] theorem State.setIme_faultRec (s : State) (v : Bool) : (s.setIme v).faultRec = s.faultRec := rfl
@[simp] theorem State.setIme_mem (s : State) (v : Bool) : (s.setIme v).mem = s.mem := rfl
@[simp] theorem State.setIme_params (s : State) (v : Bool) : (s.setIme v).params = s.params := rfl

/-! `setSp` -/

@[simp] theorem State.setSp_a (s : State) (v : Word) : (s.setSp v).a = s.a := rfl
@[simp] theorem State.setSp_f (s : State) (v : Word) : (s.setSp v).f = s.f := rfl
@[simp] theorem State.setSp_b (s : State) (v : Word) : (s.setSp v).b = s.b := rfl
@[simp] theorem State.setSp_c (s : State) (v : Word) : (s.setSp v).c = s.c := rfl
@[simp] theorem State.setSp_d (s : State) (v : Word) : (s.setSp v).d = s.d := rfl
@[simp] theorem State.setSp_e (s : State) (v : Word) : (s.setSp v).e = s.e := rfl
@[simp] theorem State.setSp_h (s : State) (v : Word) : (s.setSp v).h = s.h := rfl
@[simp] theorem State.setSp_l (s : State) (v : Word) : (s.setSp v).l = s.l := rfl
@[simp] theorem State.setSp_sp (s : State) (v : Word) : (s.setSp v).sp = v := rfl
@[simp] theorem State.setSp_pc (s : State) (v : Word) : (s.setSp v).pc = s.pc := rfl
@[simp] theorem State.setSp_ime (s : State) (v : Word) : (s.setSp v).ime = s.ime := rfl
@[simp] theorem State.setSp_run (s : State) (v : Word) : (s.setSp v).run = s.run := rfl
@[simp] theorem State.setSp_faultRec (s : State) (v : Word) : (s.setSp v).faultRec = s.faultRec := rfl
@[simp] theorem State.setSp_mem (s : State) (v : Word) : (s.setSp v).mem = s.mem := rfl
@[simp] theorem State.setSp_params (s : State) (v : Word) : (s.setSp v).params = s.params := rfl

/-! `enter` -/

@[simp] theorem State.enter_a (s : State) (r : RunState) : (s.enter r).a = s.a := rfl
@[simp] theorem State.enter_f (s : State) (r : RunState) : (s.enter r).f = s.f := rfl
@[simp] theorem State.enter_b (s : State) (r : RunState) : (s.enter r).b = s.b := rfl
@[simp] theorem State.enter_c (s : State) (r : RunState) : (s.enter r).c = s.c := rfl
@[simp] theorem State.enter_d (s : State) (r : RunState) : (s.enter r).d = s.d := rfl
@[simp] theorem State.enter_e (s : State) (r : RunState) : (s.enter r).e = s.e := rfl
@[simp] theorem State.enter_h (s : State) (r : RunState) : (s.enter r).h = s.h := rfl
@[simp] theorem State.enter_l (s : State) (r : RunState) : (s.enter r).l = s.l := rfl
@[simp] theorem State.enter_sp (s : State) (r : RunState) : (s.enter r).sp = s.sp := rfl
@[simp] theorem State.enter_pc (s : State) (r : RunState) : (s.enter r).pc = s.pc := rfl
@[simp] theorem State.enter_ime (s : State) (r : RunState) : (s.enter r).ime = s.ime := rfl
@[simp] theorem State.enter_run (s : State) (r : RunState) : (s.enter r).run = r := rfl
@[simp] theorem State.enter_faultRec (s : State) (r : RunState) : (s.enter r).faultRec = s.faultRec := rfl
@[simp] theorem State.enter_mem (s : State) (r : RunState) : (s.enter r).mem = s.mem := rfl
@[simp] theorem State.enter_params (s : State) (r : RunState) : (s.enter r).params = s.params := rfl

/-! `raiseUnimplemented` -/

@[simp] theorem State.raiseUnimplemented_a (s : State) (op : Byte) : (s.raiseUnimplemented op).a = s.a := rfl
@[simp] theorem State.raiseUnimplemented_f (s : State) (op : Byte) : (s.raiseUnimplemented op).f = s.f := rfl
@[simp] theorem State.raiseUnimplemented_b (s : State) (op : Byte) : (s.raiseUnimplemented op).b = s.b := rfl
@[simp] theorem State.raiseUnimplemented_c (s : State) (op : Byte) : (s.raiseUnimplemented op).c = s.c := rfl
@[simp] theorem State.raiseUnimplemented_d (s : State) (op : Byte) : (s.raiseUnimplemented op).d = s.d := rfl
@[simp] theorem State.raiseUnimplemented_e (s : State) (op : Byte) : (s.raiseUnimplemented op).e = s.e := rfl
@[simp] theorem State.raiseUnimplemented_h (s : State) (op : Byte) : (s.raiseUnimplemented op).h = s.h := rfl
@[simp] theorem State.raiseUnimplemented_l (s : State) (op : Byte) : (s.raiseUnimplemented op).l = s.l := rfl
@[simp] theorem State.raiseUnimplemented_sp (s : State) (op : Byte) : (s.raiseUnimplemented op).sp = s.sp := rfl
@[simp] theorem State.raiseUnimplemented_pc (s : State) (op : Byte) : (s.raiseUnimplemented op).pc = s.pc + 1 := rfl
@[simp] theorem State.raiseUnimplemented_ime (s : State) (op : Byte) : (s.raiseUnimplemented op).ime = s.ime := rfl
@[simp] theorem State.raiseUnimplemented_run (s : State) (op : Byte) : (s.raiseUnimplemented op).run = .faulted := rfl
@[simp] theorem State.raiseUnimplemented_faultRec (s : State) (op : Byte) : (s.raiseUnimplemented op).faultRec = some ⟨op, s.pc⟩ := rfl
@[simp] theorem State.raiseUnimplemented_mem (s : State) (op : Byte) : (s.raiseUnimplemented op).mem = s.mem := rfl
@[simp] theorem State.raiseUnimplemented_params (s : State) (op : Byte) : (s.raiseUnimplemented op).params = s.params := rfl

/-! `push16` -/

@[simp] theorem State.push16_a (s : State) (v : Word) : (s.push16 v).a = s.a := rfl
@[simp] theorem State.push16_f (s : State) (v : Word) : (s.push16 v).f = s.f := rfl
@[simp] theorem State.push16_b (s : State) (v : Word) : (s.push16 v).b = s.b := rfl
@[simp] theorem State.push16_c (s : State) (v : Word) : (s.push16 v).c = s.c := rfl
@[simp] theorem State.push16_d (s : State) (v : Word) : (s.push16 v).d = s.d := rfl
@[simp] theorem State.push16_e (s : State) (v : Word) : (s.push16 v).e = s.e := rfl
@[simp] theorem State.push16_h (s : State) (v : Word) : (s.push16 v).h = s.h := rfl
@[simp] theorem State.push16_l (s : State) (v : Word) : (s.push16 v).l = s.l := rfl
@[simp] theorem State.push16_sp (s : State) (v : Word) : (s.push16 v).sp = s.sp - 2 := rfl
@[simp] theorem State.push16_pc (s : State) (v : Word) : (s.push16 v).pc = s.pc := rfl
@[simp] theorem State.push16_ime (s : State) (v : Word) : (s.push16 v).ime = s.ime := rfl
@[simp] theorem State.push16_run (s : State) (v : Word) : (s.push16 v).run = s.run := rfl
@[simp] theorem State.push16_faultRec (s : State) (v : Word) : (s.push16 v).faultRec = s.faultRec := rfl
@[simp] theorem State.push16_mem (s : State) (v : Word) : (s.push16 v).mem = s.mem.write16 (s.sp - 2) v := rfl
@[simp] theorem State.push16_params (s : State) (v : Word) : (s.push16 v).params = s.params := rfl

/-! `drop16` -/

@[simp] theorem State.drop16_a (s : State) : (s.drop16).a = s.a := rfl
@[simp] theorem State.drop16_f (s : State) : (s.drop16).f = s.f := rfl
@[simp] theorem State.drop16_b (s : State) : (s.drop16).b = s.b := rfl
@[simp] theorem State.drop16_c (s : State) : (s.drop16).c = s.c := rfl
@[simp] theorem State.drop16_d (s : State) : (s.drop16).d = s.d := rfl
@[simp] theorem State.drop16_e (s : State) : (s.drop16).e = s.e := rfl
@[simp] theorem State.drop16_h (s : State) : (s.drop16).h = s.h := rfl
@[simp] theorem State.drop16_l (s : State) : (s.drop16).l = s.l := rfl
@[simp] theorem State.drop16_sp (s : State) : (s.drop16).sp = s.sp + 2 := rfl
@[simp] theorem State.drop16_pc (s : State) : (s.drop16).pc = s.pc := rfl
@[simp] theorem State.drop16_ime (s : State) : (s.drop16).ime = s.ime := rfl
@[simp] theorem State.drop16_run (s : State) : (s.drop16).run = s.run := rfl
@[simp] theorem State.drop16_faultRec (s : State) : (s.drop16).faultRec = s.faultRec := rfl
@[simp] theorem State.drop16_mem (s : State) : (s.drop16).mem = s.mem.afterRead16 s.sp := rfl
@[simp] theorem State.drop16_params (s : State) : (s.drop16).params = s.params := rfl

/-! `setA` -/

@[simp] theorem State.setA_a (s : State) (v : Byte) : (s.setA v).a = v := rfl
@[simp] theorem State.setA_f (s : State) (v : Byte) : (s.setA v).f = s.f := rfl
@[simp] theorem State.setA_b (s : State) (v : Byte) : (s.setA v).b = s.b := rfl
@[simp] theorem State.setA_c (s : State) (v : Byte) : (s.setA v).c = s.c := rfl
@[simp] theorem State.setA_d (s : State) (v : Byte) : (s.setA v).d = s.d := rfl
@[simp] theorem State.setA_e (s : State) (v : Byte) : (s.setA v).e = s.e := rfl
@[simp] theorem State.setA_h (s : State) (v : Byte) : (s.setA v).h = s.h := rfl
@[simp] theorem State.setA_l (s : State) (v : Byte) : (s.setA v).l = s.l := rfl
@[simp] theorem State.setA_sp (s : State) (v : Byte) : (s.setA v).sp = s.sp := rfl
@[simp] theorem State.setA_pc (s : State) (v : Byte) : (s.setA v).pc = s.pc := rfl
@[simp] theorem State.setA_ime (s : State) (v : Byte) : (s.setA v).ime = s.ime := rfl
@[simp] theorem State.setA_run (s : State) (v : Byte) : (s.setA v).run = s.run := rfl
@[simp] theorem State.setA_faultRec (s : State) (v : Byte) : (s.setA v).faultRec = s.faultRec := rfl
@[simp] theorem State.setA_mem (s : State) (v : Byte) : (s.setA v).mem = s.mem := rfl
@[simp] theorem State.setA_params (s : State) (v : Byte) : (s.setA v).params = s.params := rfl

/-! `setAF` -/

@[simp] theorem State.setAF_a (s : State) (v : Word) : (s.setAF v).a = hiByte v := rfl
@[simp] theorem State.setAF_f (s : State) (v : Word) : (s.setAF v).f = loByte v &&& 0xF0#8 := rfl
@[simp] theorem State.setAF_b (s : State) (v : Word) : (s.setAF v).b = s.b := rfl
@[simp] theorem State.setAF_c (s : State) (v : Word) : (s.setAF v).c = s.c := rfl
@[simp] theorem State.setAF_d (s : State) (v : Word) : (s.setAF v).d = s.d := rfl
@[simp] theorem State.setAF_e (s : State) (v : Word) : (s.setAF v).e = s.e := rfl
@[simp] theorem State.setAF_h (s : State) (v : Word) : (s.setAF v).h = s.h := rfl
@[simp] theorem State.setAF_l (s : State) (v : Word) : (s.setAF v).l = s.l := rfl
@[simp] theorem State.setAF_sp (s : State) (v : Word) : (s.setAF v).sp = s.sp := rfl
@[simp] theorem State.setAF_pc (s : State) (v : Word) : (s.setAF v).pc = s.pc := rfl
@[simp] theorem State.setAF_ime (s : State) (v : Word) : (s.setAF v).ime = s.ime := rfl
@[simp] theorem State.setAF_run (s : State) (v : Word) : (s.setAF v).run = s.run := rfl
@[simp] theorem State.setAF_faultRec (s : State) (v : Word) : (s.setAF v).faultRec = s.faultRec := rfl
@[simp] theorem State.setAF_mem (s : State) (v : Word) : (s.setAF v).mem = s.mem := rfl
@[simp] theorem State.setAF_params (s : State) (v : Word) : (s.setAF v).params = s.params := rfl

/-! `setBC` -/

@[simp] theorem State.setBC_a (s : State) (v : Word) : (s.setBC v).a = s.a := rfl
@[simp] theorem State.setBC_f (s : State) (v : Word) : (s.setBC v).f = s.f := rfl
@[simp] theorem State.setBC_b (s : State) (v : Word) : (s.setBC v).b = hiByte v := rfl
@[simp] theorem State.setBC_c (s : State) (v : Word) : (s.setBC v).c = loByte v := rfl
@[simp] theorem State.setBC_d (s : State) (v : Word) : (s.setBC v).d = s.d := rfl
@[simp] theorem State.setBC_e (s : State) (v : Word) : (s.setBC v).e = s.e := rfl
@[simp] theorem State.setBC_h (s : State) (v : Word) : (s.setBC v).h = s.h := rfl
@[simp] theorem State.setBC_l (s : State) (v : Word) : (s.setBC v).l = s.l := rfl
@[simp] theorem State.setBC_sp (s : State) (v : Word) : (s.setBC v).sp = s.sp := rfl
@[simp] theorem State.setBC_pc (s : State) (v : Word) : (s.setBC v).pc = s.pc := rfl
@[simp] theorem State.setBC_ime (s : State) (v : Word) : (s.setBC v).ime = s.ime := rfl
@[simp] theorem State.setBC_run (s : State) (v : Word) : (s.setBC v).run = s.run := rfl
@[simp] theorem State.setBC_faultRec (s : State) (v : Word) : (s.setBC v).faultRec = s.faultRec := rfl
@[simp] theorem State.setBC_mem (s : State) (v : Word) : (s.setBC v).mem = s.mem := rfl
@[simp] theorem State.setBC_params (s : State) (v : Word) : (s.setBC v).params = s.params := rfl

/-! `setDE` -/

@[simp] theorem State.setDE_a (s : State) (v : Word) : (s.setDE v).a = s.a := rfl
@[simp] theorem State.setDE_f (s : State) (v : Word) : (s.setDE v).f = s.f := rfl
@[simp] theorem State.setDE_b (s : State) (v : Word) : (s.setDE v).b = s.b := rfl
@[simp] theorem State.setDE_c (s : State) (v : Word) : (s.setDE v).c = s.c := rfl
@[simp] theorem State.setDE_d (s : State) (v : Word) : (s.setDE v).d = hiByte v := rfl
@[simp] theorem State.setDE_e (s : State) (v : Word) : (s.setDE v).e = loByte v := rfl
@[simp] theorem State.setDE_h (s : State) (v : Word) : (s.setDE v).h = s.h := rfl
@[simp] theorem State.setDE_l (s : State) (v : Word) : (s.setDE v).l = s.l := rfl
@[simp] theorem State.setDE_sp (s : State) (v : Word) : (s.setDE v).sp = s.sp := rfl
@[simp] theorem State.setDE_pc (s : State) (v : Word) : (s.setDE v).pc = s.pc := rfl
@[simp] theorem State.setDE_ime (s : State) (v : Word) : (s.setDE v).ime = s.ime := rfl
@[simp] theorem State.setDE_run (s : State) (v : Word) : (s.setDE v).run = s.run := rfl
@[simp] theorem State.setDE_faultRec (s : State) (v : Word) : (s.setDE v).faultRec = s.faultRec := rfl
@[simp] theorem State.setDE_mem (s : State) (v : Word) : (s.setDE v).mem = s.mem := rfl
@[simp] theorem State.setDE_params (s : State) (v : Word) : (s.setDE v).params = s.params := rfl

/-! `setHL` -/

@[simp] theorem State.setHL_a (s : State) (v : Word) : (s.setHL v).a = s.a := rfl
@[simp] theorem State.setHL_f (s : State) (v : Word) : (s.setHL v).f = s.f := rfl
@[simp] theorem State.setHL_b (s : State) (v : Word) : (s.setHL v).b = s.b := rfl
@[simp] theorem State.setHL_c (s : State) (v : Word) : (s.setHL v).c = s.c := rfl
@[simp] theorem State.setHL_d (s : State) (v : Word) : (s.setHL v).d = s.d := rfl
@[simp] theorem State.setHL_e (s : State) (v : Word) : (s.setHL v).e = s.e := rfl
@[simp] theorem State.setHL_h (s : State) (v : Word) : (s.setHL v).h = hiByte v := rfl
@[simp] theorem State.setHL_l (s : State) (v : Word) : (s.setHL v).l = loByte v := rfl
@[simp] theorem State.setHL_sp (s : State) (v : Word) : (s.setHL v).sp = s.sp := rfl
@[simp] theorem State.setHL_pc (s : State) (v : Word) : (s.setHL v).pc = s.pc := rfl
@[simp] theorem State.setHL_ime (s : State) (v : Word) : (s.setHL v).ime = s.ime := rfl
@[simp] theorem State.setHL_run (s : State) (v : Word) : (s.setHL v).run = s.run := rfl
@[simp] theorem State.setHL_faultRec (s : State) (v : Word) : (s.setHL v).faultRec = s.faultRec := rfl
@[simp] theorem State.setHL_mem (s : State) (v : Word) : (s.setHL v).mem = s.mem := rfl
@[simp] theorem State.setHL_params (s : State) (v : Word) : (s.setHL v).params = s.params := rfl

/-! Operand and memory reads look at these fields alone. -/

@[simp] theorem State.read_eq (s : State) (x : Word) : s.read x = s.mem.read x := rfl
@[simp] theorem State.read16_eq (s : State) (x : Word) : s.read16 x = s.mem.read16 x := rfl
@[simp] theorem State.pairBC_eq (s : State) : s.pairBC = word s.b s.c := rfl
@[simp] theorem State.pairDE_eq (s : State) : s.pairDE = word s.d s.e := rfl
@[simp] theorem State.pairHL_eq (s : State) : s.pairHL = word s.h s.l := rfl
@[simp] theorem State.pairAF_eq (s : State) : s.pairAF = word s.a (s.f &&& 0xF0#8) := rfl
@[simp] theorem State.top16_eq (s : State) : s.top16 = s.mem.read16 s.sp := rfl

/-- PC plays no part in an 8-bit operand. -/
@[simp] theorem State.get8_advance (s : State) (n : Nat) (r : R8) : (s.advance n).get8 r = s.get8 r := by cases r <;> rfl

/-- Nor in what a read of one leaves. -/
@[simp] theorem State.afterGet8_advance (s : State) (n : Nat) (r : R8) : (s.advance n).afterGet8 r = (s.afterGet8 r).advance n := by
  cases r <;> rfl

/-- The bus read of an 8-bit operand leaves the registers, so the operand `(HL)` stays at the same address. -/
@[simp] theorem State.pairHL_afterGet8 (s : State) (r : R8) : (s.afterGet8 r).pairHL = s.pairHL := rfl

/-- PC plays no part in a register pair. -/
@[simp] theorem State.get16_advance (s : State) (n : Nat) (rr : RR) : (s.advance n).get16 rr = s.get16 rr := by cases rr <;> rfl

/-- PC plays no part in a stack pair. -/
@[simp] theorem State.get16stk_advance (s : State) (n : Nat) (rr : RStk) : (s.advance n).get16stk rr = s.get16stk rr := by
  cases rr <;> rfl

/-- PC plays no part in a condition. -/
@[simp] theorem State.cond_advance (s : State) (n : Nat) (cc : Cond) : (s.advance n).cond cc = s.cond cc := by cases cc <;> rfl

@[simp] theorem State.flagZ_advance (s : State) (n : Nat) : (s.advance n).flagZ = s.flagZ := rfl
@[simp] theorem State.flagN_advance (s : State) (n : Nat) : (s.advance n).flagN = s.flagN := rfl
@[simp] theorem State.flagH_advance (s : State) (n : Nat) : (s.advance n).flagH = s.flagH := rfl
@[simp] theorem State.flagC_advance (s : State) (n : Nat) : (s.advance n).flagC = s.flagC := rfl

end Sys2Proof.Machine
end

