-- ==== Sys2Proof/Laws/Ops.lean ====
section
/-! SUPPORT. What the shared operations over operands and flags do, once each, for proofs to cite instead of unfolding them. -/

namespace Sys2Proof.Machine

open Sys2Proof.Safety

/-! ## Words made of bytes -/

@[simp] theorem hiByte_word (hi lo : Byte) : hiByte (word hi lo) = hi := by
  apply BitVec.eq_of_getLsbD_eq; intro i hi'
  simp only [hiByte, word, BitVec.getLsbD_extractLsb', BitVec.getLsbD_append, hi', decide_true, Bool.true_and]
  have : ¬ 8 + i < 8 := by omega
  simp [this]

@[simp] theorem loByte_word (hi lo : Byte) : loByte (word hi lo) = lo := by
  apply BitVec.eq_of_getLsbD_eq; intro i hi'
  simp only [loByte, word, BitVec.getLsbD_extractLsb', BitVec.getLsbD_append, hi', decide_true, Bool.true_and]
  simp [hi']

@[simp] theorem word_hiByte_loByte (v : Word) : word (hiByte v) (loByte v) = v := by
  apply BitVec.eq_of_getLsbD_eq; intro i hi'
  simp only [word, BitVec.getLsbD_append, loByte, hiByte, BitVec.getLsbD_extractLsb']
  by_cases h : i < 8
  · simp [h]
  · have h1 : i - 8 < 8 := by omega
    have h2 : 8 + (i - 8) = i := by omega
    simp [h, h1, h2]

/-! ## Operand writes: the pieces of state no operand write reaches, and reading back -/

@[simp] theorem State.set8_f (s : State) (r : R8) (v : Byte) : (s.set8 r v).f = s.f := by cases r <;> rfl
@[simp] theorem State.set8_sp (s : State) (r : R8) (v : Byte) : (s.set8 r v).sp = s.sp := by cases r <;> rfl
@[simp] theorem State.set8_pc (s : State) (r : R8) (v : Byte) : (s.set8 r v).pc = s.pc := by cases r <;> rfl
@[simp] theorem State.set8_ime (s : State) (r : R8) (v : Byte) : (s.set8 r v).ime = s.ime := by cases r <;> rfl
@[simp] theorem State.set8_run (s : State) (r : R8) (v : Byte) : (s.set8 r v).run = s.run := by cases r <;> rfl
@[simp] theorem State.set8_faultRec (s : State) (r : R8) (v : Byte) : (s.set8 r v).faultRec = s.faultRec := by cases r <;> rfl
@[simp] theorem State.set8_params (s : State) (r : R8) (v : Byte) : (s.set8 r v).params = s.params := by cases r <;> rfl

@[simp] theorem State.set16_a (s : State) (r : RR) (v : Word) : (s.set16 r v).a = s.a := by cases r <;> rfl
@[simp] theorem State.set16_f (s : State) (r : RR) (v : Word) : (s.set16 r v).f = s.f := by cases r <;> rfl
@[simp] theorem State.set16_pc (s : State) (r : RR) (v : Word) : (s.set16 r v).pc = s.pc := by cases r <;> rfl
@[simp] theorem State.set16_ime (s : State) (r : RR) (v : Word) : (s.set16 r v).ime = s.ime := by cases r <;> rfl
@[simp] theorem State.set16_run (s : State) (r : RR) (v : Word) : (s.set16 r v).run = s.run := by cases r <;> rfl
@[simp] theorem State.set16_faultRec (s : State) (r : RR) (v : Word) : (s.set16 r v).faultRec = s.faultRec := by cases r <;> rfl
@[simp] theorem State.set16_mem (s : State) (r : RR) (v : Word) : (s.set16 r v).mem = s.mem := by cases r <;> rfl
@[simp] theorem State.set16_params (s : State) (r : RR) (v : Word) : (s.set16 r v).params = s.params := by cases r <;> rfl

@[simp] theorem State.set16stk_sp (s : State) (r : RStk) (v : Word) : (s.set16stk r v).sp = s.sp := by cases r <;> rfl
@[simp] theorem State.set16stk_pc (s : State) (r : RStk) (v : Word) : (s.set16stk r v).pc = s.pc := by cases r <;> rfl
@[simp] theorem State.set16stk_ime (s : State) (r : RStk) (v : Word) : (s.set16stk r v).ime = s.ime := by cases r <;> rfl
@[simp] theorem State.set16stk_run (s : State) (r : RStk) (v : Word) : (s.set16stk r v).run = s.run := by cases r <;> rfl
@[simp] theorem State.set16stk_faultRec (s : State) (r : RStk) (v : Word) : (s.set16stk r v).faultRec = s.faultRec := by cases r <;> rfl
@[simp] theorem State.set16stk_mem (s : State) (r : RStk) (v : Word) : (s.set16stk r v).mem = s.mem := by cases r <;> rfl
@[simp] theorem State.set16stk_params (s : State) (r : RStk) (v : Word) : (s.set16stk r v).params = s.params := by cases r <;> rfl

@[simp] theorem State.set8_bus (s : State) (r : R8) (v : Byte) : (s.set8 r v).mem.bus = s.mem.bus := by cases r <;> simp [State.set8]

@[simp] theorem State.afterGet8_bus (s : State) (r : R8) : (s.afterGet8 r).mem.bus = s.mem.bus := by
  cases r <;> simp [State.afterGet8]

/-- Reading an operand changes nothing, unless it is a byte of a supplied bus. -/
theorem State.afterGet8_named (s : State) (r : R8) (h : r ≠ .hlInd ∨ ∀ k, s.mem.bus ≠ .supplied k) : s.afterGet8 r = s := by
  cases r
  case hlInd =>
    obtain h | hb := h
    · exact absurd rfl h
    · rw [State.afterGet8, Memory.afterRead_named _ _ hb]
  all_goals rfl

/-- A byte read changes nothing, unless it is of a supplied bus. -/
theorem State.afterRead_named (s : State) (x : Word) (hb : ∀ k, s.mem.bus ≠ .supplied k) : s.afterRead x = s := by
  rw [State.afterRead, Memory.afterRead_named _ _ hb]

/-- A word read changes nothing, unless it is of a supplied bus. -/
theorem State.afterRead16_named (s : State) (x : Word) (hb : ∀ k, s.mem.bus ≠ .supplied k) : s.afterRead16 x = s := by
  rw [State.afterRead16, Memory.afterRead16_named _ _ hb]

/-- An 8-bit operand write keeps the canonical form of memory. -/
theorem State.set8_wf (s : State) (r : R8) (v : Byte) (h : s.mem.wf = true) : (s.set8 r v).mem.wf = true := by
  cases r <;> first | exact h | exact Memory.write_wf _ _ _ h

/-- A register operand reads back as it was written. -/
theorem State.get8_set8 (s : State) (r : R8) (v : Byte) (h : r ≠ .hlInd) : (s.set8 r v).get8 r = v := by
  cases r <;> first | rfl | exact absurd rfl h

/-- A pair reads back as it was written. -/
@[simp] theorem State.get16_set16 (s : State) (rr : RR) (v : Word) : (s.set16 rr v).get16 rr = v := by
  cases rr <;> simp [State.set16, State.get16]

/-- A state whose memory is the old one after one bus write has stored that byte. -/
theorem StoresByte_of_mem (s t : State) (x : Word) (v : Byte) (h : t.mem = s.mem.write x v) : StoresByte s t x v := by
  unfold StoresByte
  split
  · rename_i k hb; rw [h, Memory.write_supplied _ _ _ _ hb]; rfl
  · rename_i hb; intro y; rw [State.read_eq, h]; exact Memory.read_write _ _ _ _ hb

/-- A state whose memory is the old one after `write16` has stored that word. -/
theorem StoresWord_of_mem (s t : State) (x v : Word) (h : t.mem = s.mem.write16 x v) : StoresWord s t x v := by
  unfold StoresWord
  split
  · rename_i k hb; rw [h, Memory.write16_supplied _ _ _ _ hb]; rfl
  · rename_i hb; intro y; rw [State.read_eq, h]; exact Memory.read_write16 _ _ _ _ hb

/-- A stored byte read back byte by byte, on a bus that is not supplied. -/
theorem StoresByte_reads {s t : State} {x : Word} {v : Byte} (h : StoresByte s t x v) (hb : ∀ k, s.mem.bus ≠ .supplied k) (y : Word) :
    t.read y = if y = x ∧ storesAt s.mem.bus x = true then v else s.read y := by
  unfold StoresByte at h
  split at h
  · rename_i k hk; exact absurd hk (hb k)
  · exact h y

/-- A stored word read back byte by byte, on a bus that is not supplied. -/
theorem StoresWord_reads {s t : State} {x v : Word} (h : StoresWord s t x v) (hb : ∀ k, s.mem.bus ≠ .supplied k) (y : Word) :
    t.read y =
      if y = x ∧ storesAt s.mem.bus x = true then loByte v
      else if y = x + 1 ∧ storesAt s.mem.bus (x + 1) = true then hiByte v
      else s.read y := by
  unfold StoresWord at h
  split at h
  · rename_i k hk; exact absurd hk (hb k)
  · exact h y

/-- A state with the old memory has all of it unchanged. -/
theorem Same_memory_of_mem (s t : State) (h : t.mem = s.mem) : Part.Same s t .memory :=
  ⟨fun x => by rw [State.read_eq, State.read_eq, h], fun _ _ => h⟩

/-- What an 8-bit operand write does: only the operand changes, and it takes the byte. -/
theorem State.set8_writes (s : State) (r : R8) (v : Byte) : WritesR8 r v [] s (s.set8 r v) := by
  refine ⟨fun p hp => ?_, ?_⟩
  · cases r <;> cases p <;> first | rfl | exact ⟨fun _ => rfl, fun _ _ => rfl⟩ | exact ⟨rfl, by simp [State.set8]⟩ | simp [r8Part] at hp
  · cases r <;> first | rfl | exact StoresByte_of_mem _ _ _ _ rfl

/-- What a pair write does: only the pair changes, and it takes the word. -/
theorem State.set16_writes (s : State) (rr : RR) (v : Word) : WritesRR rr v [] s (s.set16 rr v) := by
  refine ⟨fun p hp => ?_, by simp⟩
  cases rr <;> cases p <;> first | rfl | exact ⟨fun _ => rfl, fun _ _ => rfl⟩ | exact ⟨rfl, rfl⟩ | simp [rrParts] at hp

/-- The bits of the flag byte are the four flags, and F's mask keeps them. -/
theorem packFlags_bits : ∀ z n h c : Bool,
    (packFlags z n h c &&& 0xF0#8).getLsbD 7 = z ∧ (packFlags z n h c &&& 0xF0#8).getLsbD 6 = n ∧
    (packFlags z n h c &&& 0xF0#8).getLsbD 5 = h ∧ (packFlags z n h c &&& 0xF0#8).getLsbD 4 = c := by decide

@[simp] theorem State.flagZ_setFlags (s : State) (z n h c : Bool) : (s.setFlags z n h c).flagZ = z := (packFlags_bits z n h c).1
@[simp] theorem State.flagN_setFlags (s : State) (z n h c : Bool) : (s.setFlags z n h c).flagN = n := (packFlags_bits z n h c).2.1
@[simp] theorem State.flagH_setFlags (s : State) (z n h c : Bool) : (s.setFlags z n h c).flagH = h := (packFlags_bits z n h c).2.2.1
@[simp] theorem State.flagC_setFlags (s : State) (z n h c : Bool) : (s.setFlags z n h c).flagC = c := (packFlags_bits z n h c).2.2.2

/-- Every value written to F has bits 3..0 zero. -/
@[simp] theorem mask_lowNibble (v : Byte) : v &&& 0xF0#8 &&& 0x0F#8 = 0 := by
  rw [BitVec.and_assoc]; exact BitVec.and_zero

/-- What a flag line does: only F changes, to those flags. -/
theorem State.setFlags_spec (s : State) (z n h c : Bool) :
    FlagsAre (s.setFlags z n h c) z n h c ∧ KeepsExcept [.f] s (s.setFlags z n h c) := by
  refine ⟨⟨by simp, by simp, by simp, by simp, by simp⟩, fun p hp => ?_⟩
  cases p <;> first | rfl | exact ⟨fun _ => rfl, fun _ _ => rfl⟩ | exact ⟨rfl, rfl⟩ | simp at hp

/-- The sign extension of a displacement has its value as a signed number (R11). -/
theorem toInt_sext16 : ∀ e : Byte, (sext16 e).toInt = e.toInt := by decide

/-- Adding a displacement is adding its signed value modulo 65536 (R160, R175). -/
theorem toNat_add_sext16 (x : Word) (e : Byte) : ((x + sext16 e).toNat : Int) = ((x.toNat : Int) + e.toInt) % 65536 := by
  have h := BitVec.toInt_eq_toNat_cond (sext16 e)
  rw [toInt_sext16] at h
  have := (sext16 e).isLt
  have := x.isLt
  rw [BitVec.toNat_add]
  split at h <;> omega

/-- What a push does: SP falls by two and the word lies at the new SP (R170). -/
theorem State.push16_spec (s : State) (v : Word) :
    (s.push16 v).sp = s.sp - 2 ∧ StoresWord s (s.push16 v) (s.sp - 2) v ∧ KeepsExcept [.sp, .memory] s (s.push16 v) := by
  refine ⟨rfl, StoresWord_of_mem _ _ _ _ rfl, fun p hp => ?_⟩
  cases p <;> first | rfl | exact ⟨rfl, by simp⟩ | simp at hp

/-- What the fatal fault does (R230). -/
theorem State.raiseUnimplemented_spec (s : State) (op : Byte) :
    (s.raiseUnimplemented op).report = some op ∧ KeepsExcept [.pc, .run, .faultRec] s (s.raiseUnimplemented op) := by
  refine ⟨rfl, fun p hp => ?_⟩
  cases p <;> first | rfl | exact ⟨fun _ => rfl, fun _ _ => rfl⟩ | exact ⟨rfl, rfl⟩ | simp at hp

/-- Changes compose: what neither of two transitions changes, their composition does not. -/
theorem KeepsExcept_trans (c1 c2 : List Part) (s t u : State) (h1 : KeepsExcept c1 s t) (h2 : KeepsExcept c2 t u) :
    KeepsExcept (c1 ++ c2) s u := by
  intro p hp
  simp only [List.mem_append, not_or] at hp
  have a := h1 p hp.1
  have b := h2 p hp.2
  cases p
  case memory => exact ⟨fun x => (b.1 x).trans (a.1 x), fun k hk => (b.2 k (by rw [a.2 k hk]; exact hk)).trans (a.2 k hk)⟩
  all_goals first | exact b.trans a | exact ⟨b.1.trans a.1, b.2.trans a.2⟩

/-- A frame may be weakened. -/
theorem KeepsExcept_mono (c1 c2 : List Part) (s t : State) (h : KeepsExcept c1 s t) (hc : ∀ p ∈ c1, p ∈ c2) : KeepsExcept c2 s t :=
  fun p hp => h p fun hp' => hp (hc p hp')

end Sys2Proof.Machine
end

