-- ==== Sys2Proof/Laws/Exec.lean ====
section
/-! SUPPORT. What one execution can do, said once over all instructions, for invariants to cite instead of unfolding `exec`. -/

namespace Sys2Proof.Machine

open Sys2Proof.Safety

/-- What holds of the meaning of every row of the secondary space holds of the meaning of the prefix row. -/
theorem execPrefixCb_all (p : Host.Outcome State Fault Refusal → Prop) (op2 : Byte) (s : State)
    (h : ∀ r, p (execRlc r s) ∧ p (execRrc r s) ∧ p (execRl r s) ∧ p (execRr r s) ∧ p (execSla r s) ∧ p (execSra r s) ∧
      p (execSwap r s) ∧ p (execSrl r s))
    (hb : ∀ b r, p (execBit b r s) ∧ p (execRes b r s) ∧ p (execSet b r s)) : p (execPrefixCb op2 s) :=
  cbSelect_all p _ _ _ _ _ _ _ _ _ _ _ op2 h hb

/-- How one execution may change memory, the parameters and F: memory is what reads and writes of the bus make of it, the parameters do
not change, and F is left alone or takes a masked value. -/
structure Effect (s t : State) : Prop where
  mem : s.mem.Accessed t.mem
  params : t.params = s.params
  f : t.f = s.f ∨ ∃ v, t.f = v &&& 0xF0#8

theorem Effect.refl (s : State) : Effect s s := ⟨.refl, rfl, Or.inl rfl⟩

/-- Accesses alone. -/
theorem Effect_of_mem {s t : State} (hm : s.mem.Accessed t.mem) (hp : t.params = s.params) (hf : t.f = s.f) : Effect s t :=
  ⟨hm, hp, Or.inl hf⟩

/-- No access. -/
theorem Effect_pure {s t : State} (hm : t.mem = s.mem) (hp : t.params = s.params) (hf : t.f = s.f) : Effect s t :=
  Effect_of_mem (hm ▸ .refl) hp hf

/-- One `write16`. -/
theorem Effect_write16 {s t : State} {x v : Word} (hm : t.mem = s.mem.write16 x v) (hp : t.params = s.params) (hf : t.f = s.f) :
    Effect s t :=
  Effect_of_mem (hm ▸ .write16 x v .refl) hp hf

/-- One `read16`. -/
theorem Effect_read16 {s t : State} {x : Word} (hm : t.mem = s.mem.afterRead16 x) (hp : t.params = s.params)
    (hf : t.f = s.f ∨ ∃ v, t.f = v &&& 0xF0#8) : Effect s t :=
  ⟨hm ▸ .read16 x .refl, hp, hf⟩

theorem Effect_afterGet8 (s : State) (n : Nat) (r : R8) : Effect s ((s.advance n).afterGet8 r) := by
  refine Effect_of_mem ?_ rfl rfl
  cases r <;> first | exact .refl | exact .read _ .refl

theorem Effect_set8 {s t : State} (r : R8) (v : Byte) (e : Effect s t) : Effect s (t.set8 r v) := by
  refine ⟨?_, by simpa using e.params, by simpa using e.f⟩
  cases r <;> first | exact e.mem | exact e.mem.write _ _

theorem Effect_setFlags {s t : State} (z n h c : Bool) (e : Effect s t) : Effect s (t.setFlags z n h c) :=
  ⟨e.mem, e.params, Or.inr ⟨_, rfl⟩⟩

theorem Effect_setA {s t : State} (v : Byte) (e : Effect s t) : Effect s (t.setA v) := ⟨e.mem, e.params, e.f⟩

/-- Every execution that answers a next state has such an effect. -/
theorem exec_effect (i : Instr) (s t : State) (h : exec i s = .next t) : Effect s t := by
  have adv : ∀ n, Effect s (s.advance n) := fun n => Effect_pure rfl rfl rfl
  have got := Effect_afterGet8 s
  cases i
  case halt => simp only [exec, execHalt] at h; split at h <;> cases h <;> exact Effect_pure rfl rfl rfl
  case stop => simp only [exec, execStop] at h; split at h <;> cases h <;> exact Effect_pure rfl rfl rfl
  case prefixCb op2 =>
    refine execPrefixCb_all (fun o => o = .next t → Effect s t) op2 s (fun r => ?_) (fun b r => ?_) h
    · refine ⟨?_, ?_, ?_, ?_, ?_, ?_, ?_, ?_⟩ <;> intro h <;> cases h <;> exact Effect_setFlags _ _ _ _ (Effect_set8 _ _ (got 2 r))
    · refine ⟨?_, ?_, ?_⟩ <;> intro h <;> cases h
      · exact Effect_setFlags _ _ _ _ (got 2 r)
      · exact Effect_set8 _ _ (got 2 r)
      · exact Effect_set8 _ _ (got 2 r)
  case jpCcA16 | jrCcE8 => cases h; split <;> exact Effect_pure rfl rfl rfl
  case callCcA16 =>
    cases h; split
    · exact Effect_write16 (by simp; rfl) (by simp) (by simp)
    · exact adv 3
  case retCc =>
    cases h; split
    · exact Effect_read16 (by simp; rfl) (by simp) (by simp)
    · exact adv 1
  case popRr rr =>
    cases h
    cases rr <;> first | exact Effect_read16 (by simp; rfl) (by simp) (Or.inl rfl) | exact Effect_read16 (by simp; rfl) (by simp) (Or.inr ⟨_, rfl⟩)
  case ldR8D8 => cases h; exact Effect_set8 _ _ (adv 2)
  case ldR8R8 => cases h; exact Effect_set8 _ _ (got 1 _)
  case res | set => cases h; exact Effect_set8 _ _ (got 2 _)
  case incR8 | decR8 => cases h; exact Effect_setFlags _ _ _ _ (Effect_set8 _ _ (got 1 _))
  case rlc | rrc | rl | rr | sla | sra | swap | srl => cases h; exact Effect_setFlags _ _ _ _ (Effect_set8 _ _ (got 2 _))
  case bit => cases h; exact Effect_setFlags _ _ _ _ (got 2 _)
  case cpR8 => cases h; exact Effect_setFlags _ _ _ _ (got 1 _)
  case addAR8 | adcAR8 | subR8 | sbcAR8 | andR8 | xorR8 | orR8 => cases h; exact Effect_setFlags _ _ _ _ (Effect_setA _ (got 1 _))
  case ldBcIndA | ldDeIndA | ldHlIncA | ldHlDecA | ldhA8A | ldCIndA | ldA16A => cases h; exact Effect_of_mem (.write _ _ .refl) rfl rfl
  case ldABcInd | ldADeInd | ldAHlInc | ldAHlDec | ldhAA8 | ldACInd | ldAA16 => cases h; exact Effect_of_mem (.read _ .refl) rfl rfl
  case ldA16Sp | callA16 | rst | pushRr => cases h; exact Effect_write16 (by simp; rfl) (by simp) (by simp)
  case ret | reti => cases h; exact Effect_read16 (by simp; rfl) (by simp) (by simp)
  case ldRrD16 rr _ | incRr rr | decRr rr => cases h; exact Effect_pure (by simp) (by simp) (by simp)
  case nop | ldSpHl | jpA16 | jpHl | jrE8 | di | ei | unimplD3 | unimplDB | unimplDD | unimplE3 | unimplE4 | unimplEB | unimplEC |
      unimplED | unimplF4 | unimplFC | unimplFD =>
    cases h; exact Effect_pure rfl rfl rfl
  all_goals cases h; exact Effect_setFlags _ _ _ _ (Effect_pure (by simp) (by simp) (by simp))

/-- What one step does, fetch and execution together: such an effect as well. -/
theorem step_effect (s t : State) (h : step s = .next t) : Effect s t := by
  unfold step at h
  split at h
  · have e := exec_effect _ _ _ h
    exact ⟨(Memory.Accessed.reads _ _ _).trans e.mem, e.params, e.f⟩
  all_goals cases h; exact Effect.refl s

/-- The run state and the fault record are left alone. -/
def Calm (s t : State) : Prop := t.run = s.run ∧ t.faultRec = s.faultRec

theorem Calm_set8 (s t : State) (r : R8) (v : Byte) (e : Calm s t) : Calm s (t.set8 r v) :=
  ⟨by simpa using e.1, by simpa using e.2⟩

theorem Calm_afterGet8 (s : State) (n : Nat) (r : R8) : Calm s ((s.advance n).afterGet8 r) := ⟨rfl, rfl⟩

theorem Calm_setFlags (s t : State) (z n h c : Bool) (e : Calm s t) : Calm s (t.setFlags z n h c) := e

/-- What one execution does to the run state and the fault record: both are left alone; or HALT or STOP enters its state; or the fatal
fault is raised, by an undefined opcode or by HALT or STOP under its fault parameter. -/
theorem exec_run (i : Instr) (s t : State) (h : exec i s = .next t) :
    Calm s t ∨
    (i = .halt ∧ t.run = .halted ∧ t.faultRec = s.faultRec) ∨
    ((∃ x, i = .stop x) ∧ t.run = .stopped ∧ t.faultRec = s.faultRec) ∨
    (∃ op, (i, op) ∈ undefinedRows ∧ t = s.raiseUnimplemented op) ∨
    (i = .halt ∧ s.params.pHalt = .haltFaults ∧ t = s.raiseUnimplemented 0x76#8) ∨
    ((∃ x, i = .stop x) ∧ s.params.pStop = .stopFaults ∧ t = s.raiseUnimplemented 0x10#8) := by
  have got := Calm_afterGet8 s
  cases i
  case halt => simp only [exec, execHalt] at h; split at h <;> cases h <;> simp_all
  case stop => simp only [exec, execStop] at h; split at h <;> cases h <;> simp_all
  case prefixCb op2 =>
    refine Or.inl (execPrefixCb_all (fun o => o = .next t → Calm s t) op2 s (fun r => ?_) (fun b r => ?_) h)
    · refine ⟨?_, ?_, ?_, ?_, ?_, ?_, ?_, ?_⟩ <;> intro h <;> cases h <;> exact Calm_setFlags _ _ _ _ _ _ (Calm_set8 _ _ _ _ (got 2 r))
    · refine ⟨?_, ?_, ?_⟩ <;> intro h <;> cases h <;> first | exact Calm_set8 _ _ _ _ (got 2 r) | exact ⟨rfl, rfl⟩
  case unimplD3 | unimplDB | unimplDD | unimplE3 | unimplE4 | unimplEB | unimplEC | unimplED | unimplF4 | unimplFC | unimplFD =>
    cases h; exact Or.inr (Or.inr (Or.inr (Or.inl ⟨_, by simp [undefinedRows], rfl⟩)))
  case jpCcA16 | jrCcE8 | callCcA16 | retCc => cases h; refine Or.inl ?_; split <;> exact ⟨by simp, by simp⟩
  case ldR8D8 => cases h; exact Or.inl (Calm_set8 _ _ _ _ ⟨rfl, rfl⟩)
  case ldR8R8 => cases h; exact Or.inl (Calm_set8 _ _ _ _ (got 1 _))
  case res | set => cases h; exact Or.inl (Calm_set8 _ _ _ _ (got 2 _))
  case incR8 | decR8 | rlc | rrc | rl | rr | sla | sra | swap | srl =>
    cases h; exact Or.inl (Calm_setFlags _ _ _ _ _ _ (Calm_set8 _ _ _ _ (got _ _)))
  case addAR8 | adcAR8 | subR8 | sbcAR8 | andR8 | xorR8 | orR8 | cpR8 | addAD8 | adcAD8 | subD8 | sbcAD8 | andD8 | xorD8 | orD8 | cpD8 |
      rlca | rrca | rla | rra =>
    cases h; exact Or.inl (Calm_setFlags _ _ _ _ _ _ ⟨by simp, by simp⟩)
  all_goals cases h; exact Or.inl ⟨by simp, by simp⟩

/-- Loading bytes keeps the canonical form of memory. -/
theorem Memory.loadBytes_wf (m : Memory) (x : Word) (bytes : List Byte) (h : m.wf = true) : (m.loadBytes x bytes).wf = true := by
  induction bytes generalizing m x with
  | nil => exact h
  | cons v rest ih => exact ih _ _ (Memory.load_wf m x v h)

/-- Placing an instruction keeps it too. -/
theorem State.placeInstr_wf (s : State) (bytes : List Byte) (h : s.mem.wf = true) : (s.placeInstr bytes).mem.wf = true :=
  Memory.loadBytes_wf _ _ _ h

/-- A run of one step more takes that step first. -/
theorem machine_run_succ (M : Host.Core) (n : Nat) (s t : M.State) (h : M.step s = .next t) : M.run (n + 1) s = M.run n t := by
  simp only [Host.Core.run, h]

/-- The same of this machine. -/
theorem core_run_succ (n : Nat) (s t : State) (h : step s = .next t) :
    Host.Core.run Sys2Proof.core (n + 1) s = Host.Core.run Sys2Proof.core n t :=
  machine_run_succ Sys2Proof.core n s t h

end Sys2Proof.Machine
end

