-- ==== Sys2Proof/Laws/PerInstr.lean ====
section
/-! SUPPORT. Per-instruction families. `EncodedLength`: the bytes of an instruction are as many as its first byte alone tells
(spec/30_encoding.md R70). -/

namespace Sys2Proof.Laws.EncodedLength

/-- The encoding of the instruction has the length its first byte tells. -/
def Statement (i : Instr) : Prop := (encode i).length = lengthOf ((encode i).headD 0)

theorem nop : Statement .nop := rfl
theorem ldRrD16 (rr : RR) (d16 : Word) : Statement (.ldRrD16 rr d16) := by cases rr <;> rfl
theorem ldBcIndA : Statement .ldBcIndA := rfl
theorem ldDeIndA : Statement .ldDeIndA := rfl
theorem ldHlIncA : Statement .ldHlIncA := rfl
theorem ldHlDecA : Statement .ldHlDecA := rfl
theorem incRr (rr : RR) : Statement (.incRr rr) := by cases rr <;> rfl
theorem incR8 (dst : R8) : Statement (.incR8 dst) := by cases dst <;> rfl
theorem decR8 (dst : R8) : Statement (.decR8 dst) := by cases dst <;> rfl
theorem ldR8D8 (dst : R8) (d8 : Byte) : Statement (.ldR8D8 dst d8) := by cases dst <;> rfl
theorem rlca : Statement .rlca := rfl
theorem ldA16Sp (a16 : Word) : Statement (.ldA16Sp a16) := rfl
theorem addHlRr (rr : RR) : Statement (.addHlRr rr) := by cases rr <;> rfl
theorem ldABcInd : Statement .ldABcInd := rfl
theorem ldADeInd : Statement .ldADeInd := rfl
theorem ldAHlInc : Statement .ldAHlInc := rfl
theorem ldAHlDec : Statement .ldAHlDec := rfl
theorem decRr (rr : RR) : Statement (.decRr rr) := by cases rr <;> rfl
theorem rrca : Statement .rrca := rfl
theorem stop (x : Byte) : Statement (.stop x) := rfl
theorem rla : Statement .rla := rfl
theorem jrE8 (e8 : Byte) : Statement (.jrE8 e8) := rfl
theorem rra : Statement .rra := rfl
theorem jrCcE8 (cc : Cond) (e8 : Byte) : Statement (.jrCcE8 cc e8) := by cases cc <;> rfl
theorem daa : Statement .daa := rfl
theorem cpl : Statement .cpl := rfl
theorem scf : Statement .scf := rfl
theorem ccf : Statement .ccf := rfl
theorem ldR8R8 (dst src : R8) : Statement (.ldR8R8 dst src) := by cases dst <;> cases src <;> rfl
theorem halt : Statement .halt := rfl
theorem addAR8 (r : R8) : Statement (.addAR8 r) := by cases r <;> rfl
theorem adcAR8 (r : R8) : Statement (.adcAR8 r) := by cases r <;> rfl
theorem subR8 (r : R8) : Statement (.subR8 r) := by cases r <;> rfl
theorem sbcAR8 (r : R8) : Statement (.sbcAR8 r) := by cases r <;> rfl
theorem andR8 (r : R8) : Statement (.andR8 r) := by cases r <;> rfl
theorem xorR8 (r : R8) : Statement (.xorR8 r) := by cases r <;> rfl
theorem orR8 (r : R8) : Statement (.orR8 r) := by cases r <;> rfl
theorem cpR8 (r : R8) : Statement (.cpR8 r) := by cases r <;> rfl
theorem addAD8 (d8 : Byte) : Statement (.addAD8 d8) := rfl
theorem adcAD8 (d8 : Byte) : Statement (.adcAD8 d8) := rfl
theorem subD8 (d8 : Byte) : Statement (.subD8 d8) := rfl
theorem sbcAD8 (d8 : Byte) : Statement (.sbcAD8 d8) := rfl
theorem andD8 (d8 : Byte) : Statement (.andD8 d8) := rfl
theorem xorD8 (d8 : Byte) : Statement (.xorD8 d8) := rfl
theorem orD8 (d8 : Byte) : Statement (.orD8 d8) := rfl
theorem cpD8 (d8 : Byte) : Statement (.cpD8 d8) := rfl
theorem retCc (cc : Cond) : Statement (.retCc cc) := by cases cc <;> rfl
theorem popRr (rr : RStk) : Statement (.popRr rr) := by cases rr <;> rfl
theorem jpCcA16 (cc : Cond) (a16 : Word) : Statement (.jpCcA16 cc a16) := by cases cc <;> rfl
theorem jpA16 (a16 : Word) : Statement (.jpA16 a16) := rfl
theorem callCcA16 (cc : Cond) (a16 : Word) : Statement (.callCcA16 cc a16) := by cases cc <;> rfl
theorem pushRr (rr : RStk) : Statement (.pushRr rr) := by cases rr <;> rfl
theorem rst (t : BitVec 3) : Statement (.rst t) := by unfold Statement; revert t; decide
theorem ret : Statement .ret := rfl
theorem prefixCb (op2 : Byte) : Statement (.prefixCb op2) := rfl
theorem callA16 (a16 : Word) : Statement (.callA16 a16) := rfl
theorem reti : Statement .reti := rfl
theorem ldhA8A (a8 : Byte) : Statement (.ldhA8A a8) := rfl
theorem ldCIndA : Statement .ldCIndA := rfl
theorem addSpE8 (e8 : Byte) : Statement (.addSpE8 e8) := rfl
theorem jpHl : Statement .jpHl := rfl
theorem ldA16A (a16 : Word) : Statement (.ldA16A a16) := rfl
theorem ldhAA8 (a8 : Byte) : Statement (.ldhAA8 a8) := rfl
theorem ldACInd : Statement .ldACInd := rfl
theorem di : Statement .di := rfl
theorem ldHlSpE8 (e8 : Byte) : Statement (.ldHlSpE8 e8) := rfl
theorem ldSpHl : Statement .ldSpHl := rfl
theorem ldAA16 (a16 : Word) : Statement (.ldAA16 a16) := rfl
theorem ei : Statement .ei := rfl
theorem unimplD3 : Statement .unimplD3 := rfl
theorem unimplDB : Statement .unimplDB := rfl
theorem unimplDD : Statement .unimplDD := rfl
theorem unimplE3 : Statement .unimplE3 := rfl
theorem unimplE4 : Statement .unimplE4 := rfl
theorem unimplEB : Statement .unimplEB := rfl
theorem unimplEC : Statement .unimplEC := rfl
theorem unimplED : Statement .unimplED := rfl
theorem unimplF4 : Statement .unimplF4 := rfl
theorem unimplFC : Statement .unimplFC := rfl
theorem unimplFD : Statement .unimplFD := rfl
theorem rlc (r : R8) : Statement (.rlc r) := rfl
theorem rrc (r : R8) : Statement (.rrc r) := rfl
theorem rl (r : R8) : Statement (.rl r) := rfl
theorem rr (r : R8) : Statement (.rr r) := rfl
theorem sla (r : R8) : Statement (.sla r) := rfl
theorem sra (r : R8) : Statement (.sra r) := rfl
theorem swap (r : R8) : Statement (.swap r) := rfl
theorem srl (r : R8) : Statement (.srl r) := rfl
theorem bit (b : BitVec 3) (r : R8) : Statement (.bit b r) := rfl
theorem res (b : BitVec 3) (r : R8) : Statement (.res b r) := rfl
theorem set (b : BitVec 3) (r : R8) : Statement (.set b r) := rfl

end Sys2Proof.Laws.EncodedLength
end

