-- ==== Sys2Proof/Tests/Slice0.lean ====
section
/-! SUPPORT. The model's own tests: the well-formedness smoke, words written out bit by bit from spec/30_encoding.md, single steps with
the expected values of spec/95_test_vectors.md, and for every obligation with hypotheses a state and operands that meet them. -/

namespace Sys2Proof.Tests

open Sys2Proof Sys2Proof.Machine Sys2Proof.Safety

/-- The start state of the vectors: `FlatRAM`, PC 0x0100, SP 0xD000, all else 0. -/
def flat : State := { State.resetOn ⟨.flatRam, []⟩ {} with sp := 0xD000 }

/-- The start state of the `RefMap` vectors: code in WRAM at 0xC100. -/
def ref : State := { State.resetOn ⟨.refMap, []⟩ {} with sp := 0xD000, pc := 0xC100 }

/-- Bytes of memory set before a step. -/
def put (s : State) (bytes : List (Word × Byte)) : State := { s with mem := bytes.foldl (fun m w => m.load w.1 w.2) s.mem }

/-- Code placed at PC. -/
def placed (code : List Byte) (s : State) : State := { s with mem := s.mem.loadBytes s.pc code }

/-- What holds after one step of code placed at PC. -/
def after (code : List Byte) (s : State) (p : State → Bool) : Bool :=
  match step (placed code s) with
  | .next t => p t
  | _ => false

/-- The bytes decode to the instruction and all are consumed. -/
def reads (w : List Byte × Instr) : Bool :=
  match decode w.1 with
  | .ok (i, []) => decide (i = w.2)
  | _ => false

/-! ## Well-formedness: an ill-formed term for each check -/

/-- R69: 0x76 is HALT, so no instruction loads `(HL)` from `(HL)`. -/
theorem test_illFormed_load_mem_mem : (Instr.ldR8R8 .hlInd .hlInd).wellFormed = false := by decide

/-- R68: the prefix byte is not an instruction of its own. -/
theorem test_illFormed_prefix_row : (Instr.prefixCb 0x11).wellFormed = false := by decide

/-- One operand `(HL)` is well-formed. -/
theorem test_wellFormed_load_mem : (Instr.ldR8R8 .hlInd .b).wellFormed = true := by decide

/-! ## Decoding: one word per constructor, its bits written out from the opcode maps of R65 and R66 -/

/-- 8-bit loads: `01 ddd sss`, `00 ddd 110`, and the fixed opcodes of R102 to R115. -/
theorem test_decode_load8 :
    [([0b01101110], Instr.ldR8R8 .l .hlInd), ([0b01110111], .ldR8R8 .hlInd .a), ([0b00111110, 0x05], .ldR8D8 .a 0x05),
     ([0b00000010], .ldBcIndA), ([0b00010010], .ldDeIndA), ([0b00001010], .ldABcInd), ([0b00011010], .ldADeInd),
     ([0b00100010], .ldHlIncA), ([0b00110010], .ldHlDecA), ([0b00101010], .ldAHlInc), ([0b00111010], .ldAHlDec)].all reads = true := by
  decide

/-- The high-memory and direct loads of A, the address low byte first (R64). -/
theorem test_decode_load8_direct :
    [([0b11100000, 0x80], Instr.ldhA8A 0x80), ([0b11110000, 0x81], .ldhAA8 0x81), ([0b11100010], .ldCIndA), ([0b11110010], .ldACInd),
     ([0b11101010, 0x34, 0x12], .ldA16A 0x1234), ([0b11111010, 0x34, 0xC2], .ldAA16 0xC234)].all reads = true := by
  decide

/-- 16-bit loads: `00 pp 0001` and the fixed opcodes of R121 to R123. -/
theorem test_decode_load16 :
    [([0b00000001, 0x34, 0x12], Instr.ldRrD16 .bc 0x1234), ([0b00110001, 0xFE, 0xFF], .ldRrD16 .sp 0xFFFE),
     ([0b00001000, 0x00, 0xC0], .ldA16Sp 0xC000), ([0b11111001], .ldSpHl), ([0b11111000, 0xFF], .ldHlSpE8 0xFF)].all reads = true := by
  decide

/-- 8-bit ALU: `10 ooo sss`. -/
theorem test_decode_alu8_register :
    [([0b10000000], Instr.addAR8 .b), ([0b10001001], .adcAR8 .c), ([0b10010010], .subR8 .d), ([0b10011100], .sbcAR8 .h),
     ([0b10100011], .andR8 .e), ([0b10101111], .xorR8 .a), ([0b10110110], .orR8 .hlInd), ([0b10111101], .cpR8 .l)].all reads = true := by
  decide

/-- 8-bit ALU with an immediate: `11 ooo 110`. -/
theorem test_decode_alu8_immediate :
    [([0b11000110, 0x03], Instr.addAD8 0x03), ([0b11001110, 0x0F], .adcAD8 0x0F), ([0b11010110, 0x0F], .subD8 0x0F),
     ([0b11011110, 0x3A], .sbcAD8 0x3A), ([0b11100110, 0x3F], .andD8 0x3F), ([0b11101110, 0xFF], .xorD8 0xFF),
     ([0b11110110, 0x00], .orD8 0x00), ([0b11111110, 0x3C], .cpD8 0x3C)].all reads = true := by
  decide

/-- INC and DEC of 8 bits, `00 ddd 10q`, and the flag instructions. -/
theorem test_decode_step_and_flags :
    [([0b00110100], Instr.incR8 .hlInd), ([0b00001101], .decR8 .c), ([0b00100111], .daa), ([0b00101111], .cpl), ([0b00110111], .scf),
     ([0b00111111], .ccf)].all reads = true := by
  decide

/-- 16-bit arithmetic: `00 pp q011`, `00 pp 1001` and ADD SP. -/
theorem test_decode_alu16 :
    [([0b00010011], Instr.incRr .de), ([0b00101011], .decRr .hl), ([0b00111001], .addHlRr .sp), ([0b11101000, 0xF0], .addSpE8 0xF0)].all
      reads = true := by
  decide

/-- Control transfer: the condition at bits 4..3, the RST index at bits 5..3. -/
theorem test_decode_control :
    [([0b11000011, 0x50, 0x01], Instr.jpA16 0x0150), ([0b11010010, 0x34, 0x12], .jpCcA16 .nc 0x1234), ([0b11101001], .jpHl),
     ([0b00011000, 0xFE], .jrE8 0xFE), ([0b00101000, 0x10], .jrCcE8 .z 0x10), ([0b11001101, 0x10, 0x00], .callA16 0x0010),
     ([0b11011100, 0x34, 0x12], .callCcA16 .c 0x1234), ([0b11001001], .ret), ([0b11000000], .retCc .nz), ([0b11011001], .reti),
     ([0b11101111], .rst 5)].all reads = true := by
  decide

/-- Stack: `11 pp 0101` and `11 pp 0001`. -/
theorem test_decode_stack : [([0b11110101], Instr.pushRr .af), ([0b11010001], .popRr .de)].all reads = true := by decide

/-- Miscellaneous; STOP carries its second byte. -/
theorem test_decode_misc :
    [([0b00000000], Instr.nop), ([0b01110110], .halt), ([0b00010000, 0xA5], .stop 0xA5), ([0b11110011], .di), ([0b11111011], .ei),
     ([0b00000111], .rlca), ([0b00001111], .rrca), ([0b00010111], .rla), ([0b00011111], .rra)].all reads = true := by
  decide

/-- The 0xCB space: `00 ooo rrr` after the first byte. -/
theorem test_decode_cb_shift :
    [([0xCB, 0b00000000], Instr.rlc .b), ([0xCB, 0b00001001], .rrc .c), ([0xCB, 0b00010010], .rl .d), ([0xCB, 0b00011011], .rr .e),
     ([0xCB, 0b00100100], .sla .h), ([0xCB, 0b00101101], .sra .l), ([0xCB, 0b00110110], .swap .hlInd),
     ([0xCB, 0b00111111], .srl .a)].all reads = true := by
  decide

/-- The 0xCB space: `01 bbb rrr`, `10 bbb rrr` and `11 bbb rrr`. -/
theorem test_decode_cb_bit :
    [([0xCB, 0b01111110], Instr.bit 7 .hlInd), ([0xCB, 0b10001000], .res 1 .b), ([0xCB, 0b11110101], .set 6 .l)].all reads = true := by
  decide

/-- The eleven values of R67. -/
theorem test_decode_undefined :
    [([0b11010011], Instr.unimplD3), ([0b11011011], .unimplDB), ([0b11011101], .unimplDD), ([0b11100011], .unimplE3),
     ([0b11100100], .unimplE4), ([0b11101011], .unimplEB), ([0b11101100], .unimplEC), ([0b11101101], .unimplED),
     ([0b11110100], .unimplF4), ([0b11111100], .unimplFC), ([0b11111101], .unimplFD)].all reads = true := by
  decide

/-- Bytes that end too early are refused by name. -/
theorem test_decode_truncated : decode [] = .error .noBytes ∧ decode [0xC3, 0x50] = .error (.truncated 0xC3) := by
  exact ⟨rfl, rfl⟩

/-- Words of spec/opcode_table.json, an 8-bit row and a 16-bit row (BIT, match 0xCB40 with bit 7 and operand A). -/
theorem test_tableWord : decodeTableWord 8 0x76 = some .halt ∧ decodeTableWord 16 0xCB7F = some (.bit 7 .a) := by decide

/-- A table word placed at reset is the next instruction to run: `LD B,B` moves PC past it in WRAM (log entry 10). -/
theorem test_withFetchWord :
    (match step (State.reset.withFetchWord 16 0xCBC7) with | .next t => t.a == 0x01 && t.pc == 0xC102 | _ => false) = true := by
  decide

/-! ## Single steps -/

/-! 8-bit loads (spec/95_test_vectors.md L2). -/

/-- L2 row R100 `LD (HL),A`: A=99, H=C0, L=10 gives F=00, PC=0101, [C010]=99. -/
theorem test_r100_ld_hl_a :
    after [0x77] { flat with a := 0x99, h := 0xC0, l := 0x10 } (fun t => t.f == 0x00 && t.pc == 0x0101 && t.read 0xC010 == 0x99) = true := by decide

/-- L2 row R100 `LD H,(HL)`: H=C0, L=10, [C010]=3C gives F=00, H=3C, PC=0101. -/
theorem test_r100_ld_h_hl :
    after [0x66] (put { flat with h := 0xC0, l := 0x10 } [(0xC010, 0x3C)]) (fun t => t.f == 0x00 && t.h == 0x3C && t.pc == 0x0101) = true := by decide

/-- L2 row R101 `LD (HL),d8`: H=C0, L=20 gives F=00, PC=0102, [C020]=AB. -/
theorem test_r101_ld_hl_d8 :
    after [0x36, 0xAB] { flat with h := 0xC0, l := 0x20 } (fun t => t.f == 0x00 && t.pc == 0x0102 && t.read 0xC020 == 0xAB) = true := by decide

/-- L2 row R102 `LD (BC),A`: A=11, B=C0, C=30 gives F=00, PC=0101, [C030]=11. -/
theorem test_r102_ld_bc_a :
    after [0x02] { flat with a := 0x11, b := 0xC0, c := 0x30 } (fun t => t.f == 0x00 && t.pc == 0x0101 && t.read 0xC030 == 0x11) = true := by decide

/-- L2 row R103 `LD (DE),A`: A=22, D=C0, E=31 gives F=00, PC=0101, [C031]=22. -/
theorem test_r103_ld_de_a :
    after [0x12] { flat with a := 0x22, d := 0xC0, e := 0x31 } (fun t => t.f == 0x00 && t.pc == 0x0101 && t.read 0xC031 == 0x22) = true := by decide

/-- L2 row R104 `LD A,(BC)`: B=C0, C=30, [C030]=44 gives A=44, F=00, PC=0101. -/
theorem test_r104_ld_a_bc :
    after [0x0A] (put { flat with b := 0xC0, c := 0x30 } [(0xC030, 0x44)]) (fun t => t.a == 0x44 && t.f == 0x00 && t.pc == 0x0101) = true := by decide

/-- L2 row R105 `LD A,(DE)`: D=C0, E=31, [C031]=55 gives A=55, F=00, PC=0101. -/
theorem test_r105_ld_a_de :
    after [0x1A] (put { flat with d := 0xC0, e := 0x31 } [(0xC031, 0x55)]) (fun t => t.a == 0x55 && t.f == 0x00 && t.pc == 0x0101) = true := by decide

/-- L2 row R106 `LD (HL+),A`: A=66, H=FF, L=FF gives F=00, H=00, L=00, PC=0101, [FFFF]=66. -/
theorem test_r106_ld_hlinc_a :
    after [0x22] { flat with a := 0x66, h := 0xFF, l := 0xFF } (fun t => t.f == 0x00 && t.h == 0x00 && t.l == 0x00 && t.pc == 0x0101 && t.read 0xFFFF == 0x66) = true := by decide

/-- L2 row R107 `LD (HL-),A`: A=77, H=00, L=00 gives F=00, H=FF, L=FF, PC=0101, [0000]=77. -/
theorem test_r107_ld_hldec_a :
    after [0x32] { flat with a := 0x77, h := 0x00, l := 0x00 } (fun t => t.f == 0x00 && t.h == 0xFF && t.l == 0xFF && t.pc == 0x0101 && t.read 0x0000 == 0x77) = true := by decide

/-- L2 row R108 `LD A,(HL+)`: H=C0, L=40, [C040]=88 gives A=88, F=00, L=41, PC=0101. -/
theorem test_r108_ld_a_hlinc :
    after [0x2A] (put { flat with h := 0xC0, l := 0x40 } [(0xC040, 0x88)]) (fun t => t.a == 0x88 && t.f == 0x00 && t.l == 0x41 && t.pc == 0x0101) = true := by decide

/-- L2 row R109 `LD A,(HL-)`: H=C0, L=40, [C040]=99 gives A=99, F=00, L=3F, PC=0101. -/
theorem test_r109_ld_a_hldec :
    after [0x3A] (put { flat with h := 0xC0, l := 0x40 } [(0xC040, 0x99)]) (fun t => t.a == 0x99 && t.f == 0x00 && t.l == 0x3F && t.pc == 0x0101) = true := by decide

/-- L2 row R110 `LDH (a8),A`: A=12 gives F=00, PC=0102, [FF80]=12. -/
theorem test_r110_ldh_a8_a :
    after [0xE0, 0x80] { flat with a := 0x12 } (fun t => t.f == 0x00 && t.pc == 0x0102 && t.read 0xFF80 == 0x12) = true := by decide

/-- L2 row R111 `LDH A,(a8)`: [FF81]=34 gives A=34, F=00, PC=0102. -/
theorem test_r111_ldh_a_a8 :
    after [0xF0, 0x81] (put flat [(0xFF81, 0x34)]) (fun t => t.a == 0x34 && t.f == 0x00 && t.pc == 0x0102) = true := by decide

/-- L2 row R112 `LD (C),A`: A=56, C=82 gives F=00, PC=0101, [FF82]=56. -/
theorem test_r112_ld_c_a :
    after [0xE2] { flat with a := 0x56, c := 0x82 } (fun t => t.f == 0x00 && t.pc == 0x0101 && t.read 0xFF82 == 0x56) = true := by decide

/-- L2 row R112 `LD (C),A`: A=42, C=7F, PC=C100, bus RefMap (code in WRAM) gives F=00, PC=C101. -/
theorem test_r112_ld_c_a_2 :
    after [0xE2] { ref with a := 0x42, c := 0x7F, pc := 0xC100 } (fun t => t.f == 0x00 && t.pc == 0xC101) = true := by decide

/-- L2 row R113 `LD A,(C)`: C=FE, [FFFE]=9C, PC=C100, bus RefMap (code in WRAM) gives A=9C, F=00, PC=C101. -/
theorem test_r113_ld_a_c :
    after [0xF2] (put { ref with c := 0xFE, pc := 0xC100 } [(0xFFFE, 0x9C)]) (fun t => t.a == 0x9C && t.f == 0x00 && t.pc == 0xC101) = true := by decide

/-- L2 row R114 `LD (a16),A`: A=9A gives F=00, PC=0103, [C100]=9A. -/
theorem test_r114_ld_a16_a :
    after [0xEA, 0x00, 0xC1] { flat with a := 0x9A } (fun t => t.f == 0x00 && t.pc == 0x0103 && t.read 0xC100 == 0x9A) = true := by decide

/-- L2 row R115 `LD A,(a16)`: [C234]=BC gives A=BC, F=00, PC=0103. -/
theorem test_r115_ld_a_a16 :
    after [0xFA, 0x34, 0xC2] (put flat [(0xC234, 0xBC)]) (fun t => t.a == 0xBC && t.f == 0x00 && t.pc == 0x0103) = true := by decide

/-- L2 row R48 `LD A,(HL)`: H=80, L=00, PC=C100, bus RefMap (code in WRAM) gives A=FF, F=00, PC=C101. -/
theorem test_r48_ld_a_hl :
    after [0x7E] { ref with h := 0x80, l := 0x00, pc := 0xC100 } (fun t => t.a == 0xFF && t.f == 0x00 && t.pc == 0xC101) = true := by decide

/-- L2 row R44 `LD (HL),A`: A=42, H=00, L=50, PC=C100, bus RefMap (code in WRAM) gives F=00, PC=C101. -/
theorem test_r44_ld_hl_a :
    after [0x77] { ref with a := 0x42, h := 0x00, l := 0x50, pc := 0xC100 } (fun t => t.f == 0x00 && t.pc == 0xC101 && t.read 0x0050 == 0x00) = true := by decide

/-! 16-bit loads (spec/95_test_vectors.md L2). -/

/-- L2 row R120 `LD BC,d16`: — gives F=00, B=12, C=34, PC=0103. -/
theorem test_r120_ld_bc_d16 :
    after [0x01, 0x34, 0x12] flat (fun t => t.f == 0x00 && t.b == 0x12 && t.c == 0x34 && t.pc == 0x0103) = true := by decide

/-- L2 row R121 `LD (a16),SP`: SP=ABCD gives F=00, PC=0103, [C000]=CD, [C001]=AB. -/
theorem test_r121_ld_a16_sp :
    after [0x08, 0x00, 0xC0] { flat with sp := 0xABCD } (fun t => t.f == 0x00 && t.pc == 0x0103 && t.read 0xC000 == 0xCD && t.read 0xC001 == 0xAB) = true := by decide

/-- L2 row R121 `LD (a16),SP`: SP=ABCD gives F=00, PC=0103, [FFFF]=CD, [0000]=AB. -/
theorem test_r121_ld_a16_sp_2 :
    after [0x08, 0xFF, 0xFF] { flat with sp := 0xABCD } (fun t => t.f == 0x00 && t.pc == 0x0103 && t.read 0xFFFF == 0xCD && t.read 0x0000 == 0xAB) = true := by decide

/-- L2 row R122 `LD SP,HL`: H=12, L=34 gives F=00, SP=1234, PC=0101. -/
theorem test_r122_ld_sp_hl :
    after [0xF9] { flat with h := 0x12, l := 0x34 } (fun t => t.f == 0x00 && t.sp == 0x1234 && t.pc == 0x0101) = true := by decide

/-- L2 row R123 `LD HL,SP+e8`: SP=0001 gives F=30, PC=0102. -/
theorem test_r123_ld_hl_sp_e8 : after [0xF8, 0xFF] { flat with sp := 0x0001 } (fun t => t.f == 0x30 && t.pc == 0x0102) = true := by decide

/-- L2 row R123 `LD HL,SP+e8`: SP=0000 gives F=00, H=FF, L=80, PC=0102. -/
theorem test_r123_ld_hl_sp_e8_2 :
    after [0xF8, 0x80] { flat with sp := 0x0000 } (fun t => t.f == 0x00 && t.h == 0xFF && t.l == 0x80 && t.pc == 0x0102) = true := by decide

/-! 8-bit ALU (spec/95_test_vectors.md L2). -/

/-- L2 row R133 `ADD A,B`: A=3A, B=C6 gives A=00, F=B0, PC=0101. -/
theorem test_r133_add_a_b :
    after [0x80] { flat with a := 0x3A, b := 0xC6 } (fun t => t.a == 0x00 && t.f == 0xB0 && t.pc == 0x0101) = true := by decide

/-- L2 row R133 `ADD A,(HL)`: A=01, H=C0, L=00, [C000]=FF gives A=00, F=B0, PC=0101. -/
theorem test_r133_add_a_hl :
    after [0x86] (put { flat with a := 0x01, h := 0xC0, l := 0x00 } [(0xC000, 0xFF)]) (fun t => t.a == 0x00 && t.f == 0xB0 && t.pc == 0x0101) = true := by decide

/-- L2 row R134 `ADC A,C`: A=E1, C=1E, F=10 gives A=00, F=B0, PC=0101. -/
theorem test_r134_adc_a_c :
    after [0x89] { flat with a := 0xE1, f := 0x10, c := 0x1E } (fun t => t.a == 0x00 && t.f == 0xB0 && t.pc == 0x0101) = true := by decide

/-- L2 row R135 `SUB B`: A=3E, B=0F gives A=2F, F=60, PC=0101. -/
theorem test_r135_sub_b :
    after [0x90] { flat with a := 0x3E, b := 0x0F } (fun t => t.a == 0x2F && t.f == 0x60 && t.pc == 0x0101) = true := by decide

/-- L2 row R135 `SUB B`: A=3E, B=40 gives A=FE, F=50, PC=0101. -/
theorem test_r135_sub_b_2 :
    after [0x90] { flat with a := 0x3E, b := 0x40 } (fun t => t.a == 0xFE && t.f == 0x50 && t.pc == 0x0101) = true := by decide

/-- L2 row R136 `SBC A,H`: A=3B, H=4F, F=10 gives A=EB, F=70, PC=0101. -/
theorem test_r136_sbc_a_h :
    after [0x9C] { flat with a := 0x3B, f := 0x10, h := 0x4F } (fun t => t.a == 0xEB && t.f == 0x70 && t.pc == 0x0101) = true := by decide

/-- L2 row R137 `AND B`: A=5A, B=00, F=10 gives A=00, F=A0, PC=0101. -/
theorem test_r137_and_b :
    after [0xA0] { flat with a := 0x5A, f := 0x10, b := 0x00 } (fun t => t.a == 0x00 && t.f == 0xA0 && t.pc == 0x0101) = true := by decide

/-- L2 row R138 `XOR C`: A=5A, C=FF gives A=A5, F=00, PC=0101. -/
theorem test_r138_xor_c :
    after [0xA9] { flat with a := 0x5A, c := 0xFF } (fun t => t.a == 0xA5 && t.f == 0x00 && t.pc == 0x0101) = true := by decide

/-- L2 row R139 `OR B`: A=5A, B=03 gives A=5B, F=00, PC=0101. -/
theorem test_r139_or_b :
    after [0xB0] { flat with a := 0x5A, b := 0x03 } (fun t => t.a == 0x5B && t.f == 0x00 && t.pc == 0x0101) = true := by decide

/-- L2 row R140 `CP B`: A=3C, B=40 gives F=50, PC=0101. -/
theorem test_r140_cp_b : after [0xB8] { flat with a := 0x3C, b := 0x40 } (fun t => t.f == 0x50 && t.pc == 0x0101) = true := by decide

/-- L2 row R141 `ADD A,d8`: A=05 gives A=08, F=00, PC=0102. -/
theorem test_r141_add_a_d8 :
    after [0xC6, 0x03] { flat with a := 0x05 } (fun t => t.a == 0x08 && t.f == 0x00 && t.pc == 0x0102) = true := by decide

/-- L2 row R142 `ADC A,d8`: A=E1, F=10 gives A=F1, F=20, PC=0102. -/
theorem test_r142_adc_a_d8 :
    after [0xCE, 0x0F] { flat with a := 0xE1, f := 0x10 } (fun t => t.a == 0xF1 && t.f == 0x20 && t.pc == 0x0102) = true := by decide

/-- L2 row R143 `SUB d8`: A=3E gives A=2F, F=60, PC=0102. -/
theorem test_r143_sub_d8 :
    after [0xD6, 0x0F] { flat with a := 0x3E } (fun t => t.a == 0x2F && t.f == 0x60 && t.pc == 0x0102) = true := by decide

/-- L2 row R144 `SBC A,d8`: A=00, F=10 gives F=F0, PC=0102. -/
theorem test_r144_sbc_a_d8 :
    after [0xDE, 0xFF] { flat with a := 0x00, f := 0x10 } (fun t => t.f == 0xF0 && t.pc == 0x0102) = true := by decide

/-- L2 row R145 `AND d8`: A=5A gives A=1A, F=20, PC=0102. -/
theorem test_r145_and_d8 :
    after [0xE6, 0x3F] { flat with a := 0x5A } (fun t => t.a == 0x1A && t.f == 0x20 && t.pc == 0x0102) = true := by decide

/-- L2 row R146 `XOR d8`: A=5A gives A=A5, F=00, PC=0102. -/
theorem test_r146_xor_d8 :
    after [0xEE, 0xFF] { flat with a := 0x5A } (fun t => t.a == 0xA5 && t.f == 0x00 && t.pc == 0x0102) = true := by decide

/-- L2 row R147 `OR d8`: A=00 gives F=80, PC=0102. -/
theorem test_r147_or_d8 : after [0xF6, 0x00] { flat with a := 0x00 } (fun t => t.f == 0x80 && t.pc == 0x0102) = true := by decide

/-- L2 row R148 `CP d8`: A=3C gives F=C0, PC=0102. -/
theorem test_r148_cp_d8 : after [0xFE, 0x3C] { flat with a := 0x3C } (fun t => t.f == 0xC0 && t.pc == 0x0102) = true := by decide

/-- L2 row R149 `INC B`: B=FF, F=10 gives F=B0, B=00, PC=0101. -/
theorem test_r149_inc_b :
    after [0x04] { flat with f := 0x10, b := 0xFF } (fun t => t.f == 0xB0 && t.b == 0x00 && t.pc == 0x0101) = true := by decide

/-- L2 row R149 `INC (HL)`: H=C0, L=00, [C000]=7F gives F=20, PC=0101, [C000]=80. -/
theorem test_r149_inc_hl :
    after [0x34] (put { flat with h := 0xC0, l := 0x00 } [(0xC000, 0x7F)]) (fun t => t.f == 0x20 && t.pc == 0x0101 && t.read 0xC000 == 0x80) = true := by decide

/-- L2 row R150 `DEC C`: C=00, F=10 gives F=70, C=FF, PC=0101. -/
theorem test_r150_dec_c :
    after [0x0D] { flat with f := 0x10, c := 0x00 } (fun t => t.f == 0x70 && t.c == 0xFF && t.pc == 0x0101) = true := by decide

/-- L2 row R150 `DEC (HL)`: H=C0, L=00, [C000]=00 gives F=60, PC=0101, [C000]=FF. -/
theorem test_r150_dec_hl :
    after [0x35] (put { flat with h := 0xC0, l := 0x00 } [(0xC000, 0x00)]) (fun t => t.f == 0x60 && t.pc == 0x0101 && t.read 0xC000 == 0xFF) = true := by decide

/-- L2 row R151 `DAA`: A=9A gives A=00, F=90, PC=0101. -/
theorem test_r151_daa : after [0x27] { flat with a := 0x9A } (fun t => t.a == 0x00 && t.f == 0x90 && t.pc == 0x0101) = true := by decide

/-- L2 row R151 `DAA`: A=4B, F=60 gives A=45, F=40, PC=0101. -/
theorem test_r151_daa_2 :
    after [0x27] { flat with a := 0x4B, f := 0x60 } (fun t => t.a == 0x45 && t.f == 0x40 && t.pc == 0x0101) = true := by decide

/-- L2 row R152 `CPL`: A=35 gives A=CA, F=60, PC=0101. -/
theorem test_r152_cpl : after [0x2F] { flat with a := 0x35 } (fun t => t.a == 0xCA && t.f == 0x60 && t.pc == 0x0101) = true := by decide

/-- L2 row R153 `SCF`: F=E0 gives F=90, PC=0101. -/
theorem test_r153_scf : after [0x37] { flat with f := 0xE0 } (fun t => t.f == 0x90 && t.pc == 0x0101) = true := by decide

/-- L2 row R154 `CCF`: F=90 gives F=80, PC=0101. -/
theorem test_r154_ccf : after [0x3F] { flat with f := 0x90 } (fun t => t.f == 0x80 && t.pc == 0x0101) = true := by decide

/-- L2 row R154 `CCF`: F=60 gives F=10, PC=0101. -/
theorem test_r154_ccf_2 : after [0x3F] { flat with f := 0x60 } (fun t => t.f == 0x10 && t.pc == 0x0101) = true := by decide

/-! 16-bit arithmetic (spec/95_test_vectors.md L2). -/

/-- L2 row R161 `INC SP`: SP=FFFF gives F=00, SP=0000, PC=0101. -/
theorem test_r161_inc_sp :
    after [0x33] { flat with sp := 0xFFFF } (fun t => t.f == 0x00 && t.sp == 0x0000 && t.pc == 0x0101) = true := by decide

/-- L2 row R162 `DEC BC`: B=00, C=00, F=F0 gives F=F0, B=FF, C=FF, PC=0101. -/
theorem test_r162_dec_bc :
    after [0x0B] { flat with f := 0xF0, b := 0x00, c := 0x00 } (fun t => t.f == 0xF0 && t.b == 0xFF && t.c == 0xFF && t.pc == 0x0101) = true := by decide

/-- L2 row R163 `ADD HL,BC`: H=8A, L=23, B=06, C=05 gives F=20, H=90, L=28, PC=0101. -/
theorem test_r163_add_hl_bc :
    after [0x09] { flat with b := 0x06, c := 0x05, h := 0x8A, l := 0x23 } (fun t => t.f == 0x20 && t.h == 0x90 && t.l == 0x28 && t.pc == 0x0101) = true := by decide

/-- L2 row R163 `ADD HL,DE`: H=FF, L=FF, D=00, E=01, F=80 gives F=B0, H=00, L=00, PC=0101. -/
theorem test_r163_add_hl_de :
    after [0x19] { flat with f := 0x80, d := 0x00, e := 0x01, h := 0xFF, l := 0xFF } (fun t => t.f == 0xB0 && t.h == 0x00 && t.l == 0x00 && t.pc == 0x0101) = true := by decide

/-- L2 row R164 `ADD SP,e8`: SP=0001 gives F=30, SP=0000, PC=0102. -/
theorem test_r164_add_sp_e8 :
    after [0xE8, 0xFF] { flat with sp := 0x0001 } (fun t => t.f == 0x30 && t.sp == 0x0000 && t.pc == 0x0102) = true := by decide

/-- L2 row R164 `ADD SP,e8`: SP=C010 gives F=10, SP=C000, PC=0102. -/
theorem test_r164_add_sp_e8_2 :
    after [0xE8, 0xF0] { flat with sp := 0xC010 } (fun t => t.f == 0x10 && t.sp == 0xC000 && t.pc == 0x0102) = true := by decide

/-! Control transfer (spec/95_test_vectors.md L2). -/

/-- L2 row R172 `JP a16`: — gives F=00, PC=0150. -/
theorem test_r172_jp_a16 : after [0xC3, 0x50, 0x01] flat (fun t => t.f == 0x00 && t.pc == 0x0150) = true := by decide

/-- L2 row R173 `JP NZ,a16`: F=80 gives F=80, PC=0103. -/
theorem test_r173_jp_nz_a16 :
    after [0xC2, 0x34, 0x12] { flat with f := 0x80 } (fun t => t.f == 0x80 && t.pc == 0x0103) = true := by decide

/-- L2 row R173 `JP Z,a16`: F=80 gives F=80, PC=1234. -/
theorem test_r173_jp_z_a16 : after [0xCA, 0x34, 0x12] { flat with f := 0x80 } (fun t => t.f == 0x80 && t.pc == 0x1234) = true := by decide

/-- L2 row R174 `JP (HL)`: H=00, L=20 gives F=00, PC=0020. -/
theorem test_r174_jp_hl : after [0xE9] { flat with h := 0x00, l := 0x20 } (fun t => t.f == 0x00 && t.pc == 0x0020) = true := by decide

/-- L2 row R175 `JR e8`: — gives F=00, PC=0082. -/
theorem test_r175_jr_e8 : after [0x18, 0x80] flat (fun t => t.f == 0x00 && t.pc == 0x0082) = true := by decide

/-- L2 row R175 `JR e8`: PC=FFFE gives F=00, PC=007F. -/
theorem test_r175_jr_e8_2 : after [0x18, 0x7F] { flat with pc := 0xFFFE } (fun t => t.f == 0x00 && t.pc == 0x007F) = true := by decide

/-- L2 row R176 `JR NZ,e8`: F=00 gives F=00, PC=00FC. -/
theorem test_r176_jr_nz_e8 : after [0x20, 0xFA] { flat with f := 0x00 } (fun t => t.f == 0x00 && t.pc == 0x00FC) = true := by decide

/-- L2 row R176 `JR C,e8`: F=10 gives F=10, PC=0112. -/
theorem test_r176_jr_c_e8 : after [0x38, 0x10] { flat with f := 0x10 } (fun t => t.f == 0x10 && t.pc == 0x0112) = true := by decide

/-- L2 row R177 `CALL a16`: — gives F=00, SP=CFFE, PC=0010, [CFFE]=03, [CFFF]=01. -/
theorem test_r177_call_a16 :
    after [0xCD, 0x10, 0x00] flat (fun t => t.f == 0x00 && t.sp == 0xCFFE && t.pc == 0x0010 && t.read 0xCFFE == 0x03 && t.read 0xCFFF == 0x01) = true := by decide

/-- L2 row R177 `CALL a16`: SP=0001 gives F=00, SP=FFFF, PC=0010, [FFFF]=03, [0000]=01. -/
theorem test_r177_call_a16_2 :
    after [0xCD, 0x10, 0x00] { flat with sp := 0x0001 } (fun t => t.f == 0x00 && t.sp == 0xFFFF && t.pc == 0x0010 && t.read 0xFFFF == 0x03 && t.read 0x0000 == 0x01) = true := by decide

/-- L2 row R178 `CALL NZ,a16`: F=80 gives F=80, PC=0103. -/
theorem test_r178_call_nz_a16 :
    after [0xC4, 0x34, 0x12] { flat with f := 0x80 } (fun t => t.f == 0x80 && t.pc == 0x0103) = true := by decide

/-- L2 row R178 `CALL C,a16`: F=10 gives F=10, SP=CFFE, PC=1234, [CFFE]=03, [CFFF]=01. -/
theorem test_r178_call_c_a16 :
    after [0xDC, 0x34, 0x12] { flat with f := 0x10 } (fun t => t.f == 0x10 && t.sp == 0xCFFE && t.pc == 0x1234 && t.read 0xCFFE == 0x03 && t.read 0xCFFF == 0x01) = true := by decide

/-- L2 row R179 `RET`: SP=FFFF, [FFFF]=34, [0000]=12 gives F=00, SP=0001, PC=1234. -/
theorem test_r179_ret :
    after [0xC9] (put { flat with sp := 0xFFFF } [(0xFFFF, 0x34), (0x0000, 0x12)]) (fun t => t.f == 0x00 && t.sp == 0x0001 && t.pc == 0x1234) = true := by decide

/-- L2 row R180 `RET Z`: SP=CFFE, F=00, [CFFE]=06, [CFFF]=00 gives F=00, PC=0101. -/
theorem test_r180_ret_z :
    after [0xC8] (put { flat with f := 0x00, sp := 0xCFFE } [(0xCFFE, 0x06), (0xCFFF, 0x00)]) (fun t => t.f == 0x00 && t.pc == 0x0101) = true := by decide

/-- L2 row R180 `RET Z`: SP=CFFE, F=80, [CFFE]=06, [CFFF]=00 gives F=80, SP=D000, PC=0006. -/
theorem test_r180_ret_z_2 :
    after [0xC8] (put { flat with f := 0x80, sp := 0xCFFE } [(0xCFFE, 0x06), (0xCFFF, 0x00)]) (fun t => t.f == 0x80 && t.sp == 0xD000 && t.pc == 0x0006) = true := by decide

/-- L2 row R181 `RETI`: SP=C006, [C006]=22, [C007]=00 gives F=00, SP=C008, PC=0022, IME=1. -/
theorem test_r181_reti :
    after [0xD9] (put { flat with sp := 0xC006 } [(0xC006, 0x22), (0xC007, 0x00)]) (fun t => t.f == 0x00 && t.sp == 0xC008 && t.pc == 0x0022 && t.ime == true) = true := by decide

/-- L2 row R182 `RST 0x28`: SP=C008 gives F=00, SP=C006, PC=0028, [C006]=01, [C007]=01. -/
theorem test_r182_rst_0x28 :
    after [0xEF] { flat with sp := 0xC008 } (fun t => t.f == 0x00 && t.sp == 0xC006 && t.pc == 0x0028 && t.read 0xC006 == 0x01 && t.read 0xC007 == 0x01) = true := by decide

/-- L2 row R182 `RST 0x38 (SP = 0x0000)`: SP=0000, PC=C100, bus RefMap (code in WRAM) gives F=00, SP=FFFE, PC=0038, [FFFE]=01. -/
theorem test_r182_rst_0x38 :
    after [0xFF] { ref with sp := 0x0000, pc := 0xC100 } (fun t => t.f == 0x00 && t.sp == 0xFFFE && t.pc == 0x0038 && t.read 0xFFFE == 0x01) = true := by decide

/-! Stack (spec/95_test_vectors.md L2). -/

/-- L2 row R190 `PUSH AF`: A=12, F=B0, SP=E000 gives F=B0, SP=DFFE, PC=0101, [DFFE]=B0, [DFFF]=12. -/
theorem test_r190_push_af :
    after [0xF5] { flat with a := 0x12, f := 0xB0, sp := 0xE000 } (fun t => t.f == 0xB0 && t.sp == 0xDFFE && t.pc == 0x0101 && t.read 0xDFFE == 0xB0 && t.read 0xDFFF == 0x12) = true := by decide

/-- L2 row R190 `PUSH HL`: H=AB, L=CD, SP=0001 gives F=00, SP=FFFF, PC=0101, [FFFF]=CD, [0000]=AB. -/
theorem test_r190_push_hl :
    after [0xE5] { flat with h := 0xAB, l := 0xCD, sp := 0x0001 } (fun t => t.f == 0x00 && t.sp == 0xFFFF && t.pc == 0x0101 && t.read 0xFFFF == 0xCD && t.read 0x0000 == 0xAB) = true := by decide

/-- L2 row R191 `POP AF`: SP=DFFE, [DFFE]=FF, [DFFF]=12 gives A=12, F=F0, SP=E000, PC=0101. -/
theorem test_r191_pop_af :
    after [0xF1] (put { flat with sp := 0xDFFE } [(0xDFFE, 0xFF), (0xDFFF, 0x12)]) (fun t => t.a == 0x12 && t.f == 0xF0 && t.sp == 0xE000 && t.pc == 0x0101) = true := by decide

/-- L2 row R191 `POP BC`: SP=FFFE, [FFFE]=0E, [FFFF]=22, [0000]=99 gives F=00, B=22, C=0E, SP=0000, PC=0101. -/
theorem test_r191_pop_bc :
    after [0xC1] (put { flat with sp := 0xFFFE } [(0xFFFE, 0x0E), (0xFFFF, 0x22), (0x0000, 0x99)]) (fun t => t.f == 0x00 && t.b == 0x22 && t.c == 0x0E && t.sp == 0x0000 && t.pc == 0x0101) = true := by decide

/-! Miscellaneous and accumulator rotates (spec/95_test_vectors.md L2). -/

/-- L2 row R195 `NOP`: — gives F=00, PC=0101. -/
theorem test_r195_nop : after [0x00] flat (fun t => t.f == 0x00 && t.pc == 0x0101) = true := by decide

/-- L2 row R196 `HALT`: — gives F=00, PC=0101, run=HALTED. -/
theorem test_r196_halt : after [0x76] flat (fun t => t.f == 0x00 && t.pc == 0x0101 && t.run == .halted) = true := by decide

/-- L2 row R196 `HALT (P_HALT = HALT_FAULTS)`: P_HALT=HALT_FAULTS gives F=00, PC=0101, run=FAULTED, fault=(opcode 76, pc 0100). -/
theorem test_r196_halt_2 :
    after [0x76] { flat with params := { pHalt := .haltFaults } } (fun t => t.f == 0x00 && t.pc == 0x0101 && t.run == .faulted && t.faultRec == some ⟨0x76, 0x0100⟩) = true := by decide

/-- L2 row R197 `STOP`: — gives F=00, PC=0102, run=STOPPED. -/
theorem test_r197_stop : after [0x10, 0x00] flat (fun t => t.f == 0x00 && t.pc == 0x0102 && t.run == .stopped) = true := by decide

/-- L2 row R197 `STOP (P_STOP = STOP_FAULTS)`: P_STOP=STOP_FAULTS gives F=00, PC=0101, run=FAULTED, fault=(opcode 10, pc 0100). -/
theorem test_r197_stop_2 :
    after [0x10, 0x00] { flat with params := { pStop := .stopFaults } } (fun t => t.f == 0x00 && t.pc == 0x0101 && t.run == .faulted && t.faultRec == some ⟨0x10, 0x0100⟩) = true := by decide

/-- L2 row R198 `DI`: IME=1 gives F=00, PC=0101, IME=0. -/
theorem test_r198_di :
    after [0xF3] { flat with ime := true } (fun t => t.f == 0x00 && t.pc == 0x0101 && t.ime == false) = true := by decide

/-- L2 row R199 `EI`: — gives F=00, PC=0101, IME=1. -/
theorem test_r199_ei : after [0xFB] flat (fun t => t.f == 0x00 && t.pc == 0x0101 && t.ime == true) = true := by decide

/-- L2 row R200 `RLCA`: A=85 gives A=0B, F=10, PC=0101. -/
theorem test_r200_rlca : after [0x07] { flat with a := 0x85 } (fun t => t.a == 0x0B && t.f == 0x10 && t.pc == 0x0101) = true := by decide

/-- L2 row R200 `RLCA`: A=00, F=80 gives F=00, PC=0101. -/
theorem test_r200_rlca_2 : after [0x07] { flat with a := 0x00, f := 0x80 } (fun t => t.f == 0x00 && t.pc == 0x0101) = true := by decide

/-- L2 row R201 `RRCA`: A=3B gives A=9D, F=10, PC=0101. -/
theorem test_r201_rrca : after [0x0F] { flat with a := 0x3B } (fun t => t.a == 0x9D && t.f == 0x10 && t.pc == 0x0101) = true := by decide

/-- L2 row R202 `RLA`: A=95, F=10 gives A=2B, F=10, PC=0101. -/
theorem test_r202_rla :
    after [0x17] { flat with a := 0x95, f := 0x10 } (fun t => t.a == 0x2B && t.f == 0x10 && t.pc == 0x0101) = true := by decide

/-- L2 row R203 `RRA`: A=81 gives A=40, F=10, PC=0101. -/
theorem test_r203_rra : after [0x1F] { flat with a := 0x81 } (fun t => t.a == 0x40 && t.f == 0x10 && t.pc == 0x0101) = true := by decide

/-! The 0xCB space (spec/95_test_vectors.md L2). -/

/-- L2 row R211 `RLC B`: B=00 gives F=80, PC=0102. -/
theorem test_r211_rlc_b : after [0xCB, 0x00] { flat with b := 0x00 } (fun t => t.f == 0x80 && t.pc == 0x0102) = true := by decide

/-- L2 row R211 `RLC (HL)`: H=C0, L=00, [C000]=80 gives F=10, PC=0102, [C000]=01. -/
theorem test_r211_rlc_hl :
    after [0xCB, 0x06] (put { flat with h := 0xC0, l := 0x00 } [(0xC000, 0x80)]) (fun t => t.f == 0x10 && t.pc == 0x0102 && t.read 0xC000 == 0x01) = true := by decide

/-- L2 row R212 `RRC C`: C=01 gives F=10, C=80, PC=0102. -/
theorem test_r212_rrc_c :
    after [0xCB, 0x09] { flat with c := 0x01 } (fun t => t.f == 0x10 && t.c == 0x80 && t.pc == 0x0102) = true := by decide

/-- L2 row R213 `RL D`: D=95, F=10 gives F=10, D=2B, PC=0102. -/
theorem test_r213_rl_d :
    after [0xCB, 0x12] { flat with f := 0x10, d := 0x95 } (fun t => t.f == 0x10 && t.d == 0x2B && t.pc == 0x0102) = true := by decide

/-- L2 row R214 `RR D`: D=23, F=10 gives F=10, D=91, PC=0102. -/
theorem test_r214_rr_d :
    after [0xCB, 0x1A] { flat with f := 0x10, d := 0x23 } (fun t => t.f == 0x10 && t.d == 0x91 && t.pc == 0x0102) = true := by decide

/-- L2 row R215 `SLA E`: E=80 gives F=90, E=00, PC=0102. -/
theorem test_r215_sla_e :
    after [0xCB, 0x23] { flat with e := 0x80 } (fun t => t.f == 0x90 && t.e == 0x00 && t.pc == 0x0102) = true := by decide

/-- L2 row R216 `SRA H`: H=8A gives F=00, H=C5, PC=0102. -/
theorem test_r216_sra_h :
    after [0xCB, 0x2C] { flat with h := 0x8A } (fun t => t.f == 0x00 && t.h == 0xC5 && t.pc == 0x0102) = true := by decide

/-- L2 row R217 `SWAP A`: A=F0, F=10 gives A=0F, F=00, PC=0102. -/
theorem test_r217_swap_a :
    after [0xCB, 0x37] { flat with a := 0xF0, f := 0x10 } (fun t => t.a == 0x0F && t.f == 0x00 && t.pc == 0x0102) = true := by decide

/-- L2 row R218 `SRL L`: L=01 gives F=90, L=00, PC=0102. -/
theorem test_r218_srl_l :
    after [0xCB, 0x3D] { flat with l := 0x01 } (fun t => t.f == 0x90 && t.l == 0x00 && t.pc == 0x0102) = true := by decide

/-- L2 row R219 `BIT 7,A`: A=7F, F=10 gives F=B0, PC=0102. -/
theorem test_r219_bit_7_a :
    after [0xCB, 0x7F] { flat with a := 0x7F, f := 0x10 } (fun t => t.f == 0xB0 && t.pc == 0x0102) = true := by decide

/-- L2 row R219 `BIT 0,(HL)`: H=C0, L=00, F=50, [C000]=01 gives F=30, PC=0102. -/
theorem test_r219_bit_0_hl :
    after [0xCB, 0x46] (put { flat with f := 0x50, h := 0xC0, l := 0x00 } [(0xC000, 0x01)]) (fun t => t.f == 0x30 && t.pc == 0x0102) = true := by decide

/-- L2 row R220 `RES 0,B`: B=FF, F=F0 gives F=F0, B=FE, PC=0102. -/
theorem test_r220_res_0_b :
    after [0xCB, 0x80] { flat with f := 0xF0, b := 0xFF } (fun t => t.f == 0xF0 && t.b == 0xFE && t.pc == 0x0102) = true := by decide

/-- L2 row R220 `RES 7,(HL)`: H=C0, L=00, [C000]=80 gives F=00, PC=0102, [C000]=00. -/
theorem test_r220_res_7_hl :
    after [0xCB, 0xBE] (put { flat with h := 0xC0, l := 0x00 } [(0xC000, 0x80)]) (fun t => t.f == 0x00 && t.pc == 0x0102 && t.read 0xC000 == 0x00) = true := by decide

/-- L2 row R221 `SET 7,A`: A=00 gives A=80, F=00, PC=0102. -/
theorem test_r221_set_7_a :
    after [0xCB, 0xFF] { flat with a := 0x00 } (fun t => t.a == 0x80 && t.f == 0x00 && t.pc == 0x0102) = true := by decide

/-! Faults (spec/95_test_vectors.md L2). -/

/-- L2 row R230 `(0xD3)`: A=12 gives F=00, PC=0101, run=FAULTED, fault=(opcode D3, pc 0100). -/
theorem test_r230_op_d3 :
    after [0xD3] { flat with a := 0x12 } (fun t => t.f == 0x00 && t.pc == 0x0101 && t.run == .faulted && t.faultRec == some ⟨0xD3, 0x0100⟩) = true := by decide

/-- L2 row R230 `(0xFD)`: — gives F=00, PC=0101, run=FAULTED, fault=(opcode FD, pc 0100). -/
theorem test_r230_op_fd :
    after [0xFD] flat (fun t => t.f == 0x00 && t.pc == 0x0101 && t.run == .faulted && t.faultRec == some ⟨0xFD, 0x0100⟩) = true := by decide

/-- R29: a step from HALTED changes nothing. -/
theorem test_r29_halted_waits : after [0x3C] { flat with run := .halted } (fun t => t.a == 0x00 && t.pc == 0x0100) = true := by decide

/-- R231: 255 bytes of boot image build no state (L1.10). -/
theorem test_r231_short_boot_image (v : Byte) :
    State.construct (List.replicate 255 v) {} = .fault (.bootImageSize 255) := by
  simp only [State.construct, List.length_replicate]; rfl

/-- R251: from reset, the first step is RST 0x38 (L3 P1, step 1). -/
theorem test_r251_first_step :
    (match step State.reset with | .next t => t.sp == 0xFFFE && t.pc == 0x0038 && t.read 0xFFFE == 0x01 | _ => false) = true := by
  decide

/-- The prefix row runs the row its second byte selects: SWAP A (L2 row R217). -/
theorem test_prefix_row : (match exec (.prefixCb 0x37) { flat with a := 0xF0, f := 0x10 } with
    | .next t => t.a == 0x0F && t.f == 0x00 && t.pc == 0x0102 | _ => false) = true := by decide

/-! ## Witnesses: for every obligation with hypotheses, a state and operands that meet them together -/

theorem test_witness_LoadRegisterFromRegister : ∃ dst src : R8, dst ≠ .hlInd ∨ src ≠ .hlInd := ⟨.hlInd, .b, by decide⟩

/-- N clear with both corrections, and N set with both (L2 rows R151). -/
theorem test_witness_DecimalAdjust :
    (∃ s : State, s.flagN = false ∧ s.flagC = true ∧ s.flagH = true) ∧ ∃ s : State, s.flagN = true ∧ s.flagC = true ∧ s.flagH = true :=
  ⟨⟨{ flat with f := 0x30 }, by decide⟩, ⟨{ flat with f := 0x70 }, by decide⟩⟩

/-- The largest operands: 99 and 99 with a carry in, the second in a register and in the byte at HL. -/
theorem test_witness_DecimalAdjustMakesDecimalSums :
    ∃ (s : State) (x y : Nat), x < 100 ∧ y < 100 ∧ s.a = bcd x ∧ s.flagC = true ∧ s.get8 .d = bcd y ∧ s.get8 .hlInd = bcd y :=
  ⟨put { flat with a := 0x99, d := 0x99, f := 0x10 } [(0x0000, 0x99)], 99, 99, by decide⟩

/-- Every condition holds in some state and fails in another. -/
theorem test_witness_conditions :
    [Cond.nz, .z, .nc, .c].all (fun cc => taken { flat with f := 0x90 } cc != taken flat cc) = true := by decide

/-- SP at the top of WRAM; and bytes that read back although writes do not reach them (0xFFFF pushed into unmapped space). -/
theorem test_witness_StackSymmetry :
    (∃ s : State, storesAt s.mem.bus (s.sp - 2) = true ∧ storesAt s.mem.bus (s.sp - 1) = true ∧ s.mem.bus = .refMap) ∧
    ∃ s t : State, exec (.pushRr .bc) s = .next t ∧ storesAt s.mem.bus (s.sp - 2) = false ∧
      t.read (s.sp - 2) = loByte (s.get16stk .bc) ∧ (t.afterRead (s.sp - 2)).read (s.sp - 1) = hiByte (s.get16stk .bc) :=
  ⟨⟨{ ref with sp := 0xE000 }, by decide⟩, ⟨{ ref with sp := 0x9000, b := 0xFF, c := 0xFF }, _, rfl, by decide, by decide, by decide⟩⟩

theorem test_witness_HaltByParameter :
    (∃ s : State, s.params.pHalt = .haltStops) ∧ ∃ s : State, s.params.pHalt = .haltFaults :=
  ⟨⟨flat, rfl⟩, ⟨{ flat with params := { pHalt := .haltFaults } }, rfl⟩⟩

theorem test_witness_StopByParameter :
    (∃ s : State, s.params.pStop = .stopStops) ∧ ∃ s : State, s.params.pStop = .stopFaults :=
  ⟨⟨flat, rfl⟩, ⟨{ flat with params := { pStop := .stopFaults } }, rfl⟩⟩

theorem test_witness_UndefinedOpcodesFault : ∃ row, row ∈ undefinedRows := ⟨(.unimplFD, 0xFD), by decide⟩

/-- Operands at the ends of their ranges. -/
theorem test_witness_EncodeThenDecode :
    (Instr.ldA16A 0xFFFF).wellFormed = true ∧ (Instr.set 7 .a).wellFormed = true ∧ (Instr.jrCcE8 .c 0x80).wellFormed = true := by
  decide

theorem test_witness_StepRunsDecodedInstruction :
    (∃ (s : State) (i : Instr) (rest : List Byte), s.run = .running ∧
      decode [s.read s.pc, (s.afterRead s.pc).read (s.pc + 1), ((s.afterRead s.pc).afterRead (s.pc + 1)).read (s.pc + 2)] = .ok (i, rest)) ∧
    (∃ s : State, s.run = .halted) ∧ (∃ s : State, s.run = .stopped) ∧ ∃ s : State, s.run = .faulted :=
  ⟨⟨placed [0x80] flat, .addAR8 .b, [0x00, 0x00], rfl, rfl⟩, ⟨{ flat with run := .halted }, rfl⟩, ⟨{ flat with run := .stopped }, rfl⟩,
    ⟨{ flat with run := .faulted, faultRec := some ⟨0xD3, 0x00FF⟩ }, rfl⟩⟩

/-- A faulting opcode and one that does not fault. -/
theorem test_witness_FaultedExactlyByFaultingOpcodes :
    (∃ s t : State, s.run = .running ∧ step s = .next t ∧ opcodeFaults s.params (s.read s.pc) ∧ t.run = .faulted) ∧
    ∃ s t : State, s.run = .running ∧ step s = .next t ∧ s.read s.pc = 0x76#8 ∧ t.run = .halted :=
  ⟨⟨placed [0xD3] flat, _, rfl, rfl, Or.inl (by decide), rfl⟩, ⟨placed [0x76] flat, _, rfl, rfl, by decide, rfl⟩⟩

theorem test_witness_WaitAndFaultStatesAreTerminal : ∃ s : State, s.run ≠ .running := ⟨{ flat with run := .stopped }, by decide⟩

theorem test_witness_InvariantAtReset : ∃ (boot : List Byte) (params : Params) (s : State), State.construct boot params = .next s :=
  ⟨List.replicate 256 0xFF, {}, _, if_pos List.length_replicate⟩

/-- A RUNNING state with flags set and bytes in memory, about to fault. -/
theorem test_witness_InvariantKeptByEveryStep : ∃ s t : State, Inv s ∧ step s = .next t ∧ t.run = .faulted :=
  ⟨placed [0xFD] { ref with f := 0xF0 }, _, ⟨by decide, by decide, by decide, fun r h => by cases h⟩, rfl, rfl⟩

/-- A store aimed at the first address of unmapped space. -/
theorem test_witness_UnwritableMemoryNeverChanges :
    ∃ (s t : State) (x : Word), step s = .next t ∧ s.mem.bus = .refMap ∧ s.fetchInstr = .ldR8R8 .hlInd .a ∧ s.pairHL = x ∧
      storesAt .refMap x = false ∧ 0x00FF < x.toNat :=
  ⟨placed [0x77] { ref with a := 0x42, h := 0x01 }, _, 0x0100, rfl, rfl, by decide, by decide, by decide, by decide⟩

/-- A step that changes IME. -/
theorem test_witness_InterruptHookIsNeverRead : ∃ s t : State, step s = .next t ∧ t.ime ≠ s.ime :=
  ⟨placed [0xFB] ref, _, rfl, by decide⟩

/-- Both clauses at both ends of their ranges, each address in its own region only. -/
theorem test_witness_BootImageAndWorkingRam :
    ref.mem.bus = .refMap ∧
    [(0x0000 : Word), 0x00FF].all (fun x => decide (x.toNat ≤ 0x00FF ∧ busRegion .refMap x = .bootImage)) = true ∧
    [(0xC000 : Word), 0xDFFF].all (fun x => decide (0xC000 ≤ x.toNat ∧ x.toNat ≤ 0xDFFF ∧ busRegion .refMap x = .wram)) = true := by
  decide

/-- Both clauses at both ends of their ranges, each address in its own region only. -/
theorem test_witness_HighRamAndUnmappedSpace :
    ref.mem.bus = .refMap ∧
    [(0xFF80 : Word), 0xFFFE].all (fun x => decide (0xFF80 ≤ x.toNat ∧ x.toNat ≤ 0xFFFE ∧ busRegion .refMap x = .hram)) = true ∧
    [(0x0100 : Word), 0xBFFF, 0xE000, 0xFF7F, 0xFFFF].all (fun x => decide
      ((0x0100 ≤ x.toNat ∧ x.toNat ≤ 0xBFFF ∨ 0xE000 ≤ x.toNat ∧ x.toNat ≤ 0xFF7F ∨ x.toNat = 0xFFFF) ∧
        busRegion .refMap x = .unmapped)) = true := by
  decide

/-- What one write and a read give at the ends of each region (R43, R44, R48). -/
theorem test_r43_region_ends :
    [((0x0000 : Word), (0x00 : Byte)), (0x00FF, 0x00), (0x0100, 0xFF), (0xBFFF, 0xFF), (0xC000, 0x42), (0xDFFF, 0x42), (0xE000, 0xFF),
     (0xFF7F, 0xFF), (0xFF80, 0x42), (0xFFFE, 0x42), (0xFFFF, 0xFF)].all (fun p => (ref.mem.write p.1 0x42).read p.1 == p.2) = true := by
  decide

theorem test_witness_FlatRamStoresEveryAddress : ∃ m : Memory, m.bus = .flatRam := ⟨flat.mem, rfl⟩

/-- The last word of WRAM. -/
theorem test_witness_WordAccessIsLittleEndian :
    ∃ (s : State) (x : Word), storesAt s.mem.bus x = true ∧ storesAt s.mem.bus (x + 1) = true ∧ s.mem.bus = .refMap :=
  ⟨ref, 0xDFFE, by decide⟩

theorem test_witness_ConstructionFromBootImage :
    (∃ boot : List Byte, boot.length = 256) ∧ ∃ boot : List Byte, boot.length ≠ 256 :=
  ⟨⟨List.replicate 256 0x00, List.length_replicate⟩, ⟨List.replicate 257 0x00, by rw [List.length_replicate]; decide⟩⟩

theorem test_witness_FirstStepIsRestart : ∃ (boot : List Byte) (params : Params) (s : State), State.construct boot params = .next s :=
  ⟨List.replicate 256 0x31, { pHalt := .haltFaults }, _, if_pos List.length_replicate⟩

/-- A state over a supplied bus. -/
def outer : State := { ref with mem := ⟨.supplied 3, [(7, 0x2A)]⟩ }

theorem test_witness_SuppliedBusAnswersEveryAccess :
    (∃ (m : Memory) (k : Nat), m.bus = .supplied k) ∧ (∃ m : Memory, m.bus = .refMap) ∧ ∃ m : Memory, m.bus = .flatRam :=
  ⟨⟨outer.mem, 3, rfl⟩, ⟨ref.mem, rfl⟩, ⟨flat.mem, rfl⟩⟩

/-- R40, R107: over a supplied bus `LD (HL-),A` is one write of A at the old HL. -/
theorem test_supplied_store : (match exec .ldHlDecA { outer with a := 0x77, l := 0x00, h := 0xC1 } with
    | .next t => some (t.mem, t.pairHL) | _ => none) = some (⟨.supplied 3, Config.busWrite 3 [(7, 0x2A)] 0xC100 0x77⟩, 0xC0FF) := rfl

/-- R50, R104: over a supplied bus `LD A,(BC)` is one read at BC: A takes its answer, and memory is what it leaves. -/
theorem test_supplied_load : (match exec .ldABcInd { outer with b := 0xC0, c := 0x30 } with
    | .next t => some (t.mem, t.a) | _ => none) =
      some (⟨.supplied 3, Config.busAfterRead 3 [(7, 0x2A)] 0xC030⟩, Config.busRead 3 [(7, 0x2A)] 0xC030) := rfl

/-- R57, R220: over a supplied bus `RES 0,(HL)` reads at HL and then writes there, once each. -/
theorem test_supplied_read_then_write : (match exec (.res 0 .hlInd) { outer with h := 0xC1, l := 0x00 } with
    | .next t => some t.mem.cells | _ => none) =
      some (Config.busWrite 3 (Config.busAfterRead 3 [(7, 0x2A)] 0xC100) 0xC100 (Config.busRead 3 [(7, 0x2A)] 0xC100 &&& 0xFE)) := rfl

/-- R57, R179, D9: over a supplied bus `RET` reads the low byte at SP, then the high byte at the next address. -/
theorem test_supplied_return : (match exec .ret { outer with sp := 0xD000 } with
    | .next t => some (t.mem.cells, t.pc) | _ => none) =
      some (Config.busAfterRead 3 (Config.busAfterRead 3 [(7, 0x2A)] 0xD000) 0xD001,
        word (Config.busRead 3 (Config.busAfterRead 3 [(7, 0x2A)] 0xD000) 0xD001) (Config.busRead 3 [(7, 0x2A)] 0xD000)) := rfl

/-- R57: the fetch of a three-byte instruction reads three bytes in address order, the address wrapping. -/
theorem test_supplied_fetch : (outer.afterReads 0xFFFF 3).mem.cells =
    Config.busAfterRead 3 (Config.busAfterRead 3 (Config.busAfterRead 3 [(7, 0x2A)] 0xFFFF) 0x0000) 0x0001 := rfl

/-- R70, R197: STOP is fetched with its second byte, but alone where it faults; a CB form has two bytes, JP three, an undefined opcode one. -/
theorem test_fetchLength :
    (placed [0x10] flat).fetchLength = 2 ∧ (placed [0x10] { flat with params := { pStop := .stopFaults } }).fetchLength = 1 ∧
    (placed [0xCB] flat).fetchLength = 2 ∧ (placed [0xC3] flat).fetchLength = 3 ∧ (placed [0xD3] flat).fetchLength = 1 := by
  decide

/-- Two memories that differ as data and answer alike: `FlatRAM` with nothing listed, and the same with a byte listed that need not be. -/
theorem test_witness_BusSubstitution : ∃ (R : Memory → Memory → Prop) (s : State) (m' : Memory),
    (∀ m m', R m m' → (∀ x, m.read x = m'.read x) ∧ (∀ x, R (m.afterRead x) (m'.afterRead x)) ∧
      ∀ x v, R (m.write x v) (m'.write x v)) ∧ R s.mem m' ∧ s.mem ≠ m' := by
  refine ⟨fun m m' => m.bus = .flatRam ∧ m'.bus = .flatRam ∧ ∀ x, m.read x = m'.read x, flat, ⟨.flatRam, [(0, 0x00)]⟩,
    fun m m' h => ⟨h.2.2, fun x => ?_, fun x v => ⟨by simp [h.1], by simp [h.2.1], fun y => ?_⟩⟩, ⟨rfl, rfl, fun x => ?_⟩, by decide⟩
  · rw [Memory.afterRead_named _ _ (by simp [h.1]), Memory.afterRead_named _ _ (by simp [h.2.1])]; exact h
  · rw [Memory.read_write _ _ _ _ (by simp [h.1]), Memory.read_write _ _ _ _ (by simp [h.2.1]), h.1, h.2.1, h.2.2 y]
  · by_cases hx : x = 0#16
    · subst hx; rfl
    · simp [flat, State.resetOn, Memory.read, Memory.cellRead, cellsGet, busUnlisted, busRegion, Region.backed]
      split <;> rfl

end Sys2Proof.Tests
end

section
/-! PROOFS. The statements of spec/00_scope.md: what a bus does with each access, what no step changes, and that the core sees nothing of
a bus but its answers. -/

namespace Sys2Proof.Machine

open Sys2Proof.Safety

/-! ## The buses the spec names, and a supplied one -/

/-- `RefMap` and `FlatRAM` are not supplied buses. -/
theorem BusKind.ne_supplied_of_named {bus : BusKind} (h : bus = .refMap ∨ bus = .flatRam) (k : Nat) : bus ≠ .supplied k := by
  obtain rfl | rfl := h <;> nofun

/-- A supplied bus answers the low byte of `read16`, and then, from what that read leaves, the high byte. -/
theorem Memory.read16_supplied (m : Memory) (k : Nat) (x : Word) (hb : m.bus = .supplied k) :
    m.read16 x = word (Config.busRead k (Config.busAfterRead k m.cells x) (x + 1)) (Config.busRead k m.cells x) := by
  rw [Memory.read16, Memory.read_supplied m k x hb, Memory.read_supplied _ k _ (by simpa using hb),
    Memory.afterRead_supplied m k x hb]

/-- The two reads of `read16` leave a supplied bus as it says itself, one after the other. -/
theorem Memory.afterRead16_supplied (m : Memory) (k : Nat) (x : Word) (hb : m.bus = .supplied k) :
    m.afterRead16 x = { m with cells := Config.busAfterRead k (Config.busAfterRead k m.cells x) (x + 1) } := by
  rw [Memory.afterRead16, Memory.afterRead_supplied _ k _ (by simpa using hb), Memory.afterRead_supplied m k x hb]

/-- Settles O59: the named buses by the laws of their reads, a supplied bus access by access. -/
theorem suppliedBusAnswersEveryAccess : Obligations.SuppliedBusAnswersEveryAccess := by
  refine fun m x v b n => ⟨fun hb => ?_, fun k hb => ?_⟩
  · have hn := BusKind.ne_supplied_of_named hb
    exact ⟨m.afterRead_named x hn, m.afterRead16_named x hn, m.afterReads_named x n hn⟩
  · exact ⟨m.read_supplied k x hb, m.afterRead_supplied k x hb, m.write_supplied k x b hb, m.read16_supplied k x hb,
      m.afterRead16_supplied k x hb, m.write16_supplied k x v hb⟩

/-! ## What no step changes -/

/-- Above the boot image, `RefMap` is unmapped wherever no write reaches it (R43). -/
theorem busRegion_refMap_unmapped {x : Word} (hx : storesAt .refMap x = false) (hhi : 0x00FF < x.toNat) :
    busRegion .refMap x = .unmapped := by
  simp only [storesAt, decide_eq_false_iff_not, not_or] at hx
  obtain ⟨hwram, hhram⟩ := hx
  simp only [busRegion, Nat.not_le.mpr hhi, hwram, hhram, if_false]

/-- Unmapped space reads 0xFF (R48). -/
theorem Memory.read_unmapped {m : Memory} {x : Word} (hr : busRegion m.bus x = .unmapped) : m.read x = 0xFF#8 := by
  have hb : ∀ k, m.bus ≠ .supplied k := fun k hk => by rw [hk] at hr; cases hr
  rw [Memory.read_cells m x hb]
  simp [Memory.cellRead, busUnlisted, hr, Region.backed]

/-- Settles O50: a step only accesses the bus (`step_effect`), and no access changes which bus it is, or a byte that no write reaches. -/
theorem unwritableMemoryNeverChanges : Obligations.UnwritableMemoryNeverChanges := by
  intro s t hstep
  obtain ⟨hmem, hparams, -⟩ := step_effect s t hstep
  refine ⟨fun hb x hx => ⟨?_, fun hhi => ?_⟩, hmem.bus, hparams⟩
  · exact hmem.unwritable (BusKind.ne_supplied_of_named (.inl hb)) x (by rw [hb]; exact hx)
  · exact Memory.read_unmapped (by rw [hmem.bus, hb]; exact busRegion_refMap_unmapped hx hhi)

/-! ## Substituting one bus for another

`SameButBus R` relates two states that differ in memory alone, by memories that `R` relates. Each operation of the model keeps it, and a
meaning is composed of operations. -/

/-- The state with another memory in place of its own. -/
def State.withMem (s : State) (m : Memory) : State := { s with mem := m }

/-- A relation of memories that answer alike, kept by every access made on both: the hypothesis of `Obligations.BusSubstitution`. -/
structure AnswersAlike (R : Memory → Memory → Prop) : Prop where
  read {m m' : Memory} (h : R m m') (x : Word) : m.read x = m'.read x
  afterRead {m m' : Memory} (h : R m m') (x : Word) : R (m.afterRead x) (m'.afterRead x)
  write {m m' : Memory} (h : R m m') (x : Word) (v : Byte) : R (m.write x v) (m'.write x v)

/-- Two states that differ in memory alone, with related memories. -/
inductive SameButBus (R : Memory → Memory → Prop) (s : State) : State → Prop where
  | withMem (m' : Memory) (h : R s.mem m') : SameButBus R s (s.withMem m')

/-- Two outcomes that are next states differing in memory alone, with related memories. -/
inductive NextSameButBus (R : Memory → Memory → Prop) :
    Host.Outcome State Fault Refusal → Host.Outcome State Fault Refusal → Prop where
  | next {t t' : State} (h : SameButBus R t t') : NextSameButBus R (.next t) (.next t')

/-- An update of the state that neither reads nor changes memory. -/
def MemBlind (f : State → State) : Prop := ∀ (s : State) (m : Memory), f (s.withMem m) = (f s).withMem m

theorem MemBlind.mem_eq {f : State → State} (hf : MemBlind f) (s : State) : (f s).mem = s.mem := by
  have h : f s = (f s).withMem s.mem := hf s s.mem
  rw [h]; rfl

section Congruence

variable {R : Memory → Memory → Prop} {s s' t t' u u' : State}

namespace SameButBus

/-! What does not lie in memory is the same. -/

theorem pc (h : SameButBus R s s') : s'.pc = s.pc := by
  obtain ⟨m', hm⟩ := h
  rfl

theorem params (h : SameButBus R s s') : s'.params = s.params := by
  obtain ⟨m', hm⟩ := h
  rfl

theorem cond (h : SameButBus R s s') (cc : Cond) : s'.cond cc = s.cond cc := by
  obtain ⟨m', hm⟩ := h
  cases cc <;> rfl

/-- A condition is the same, so the same branch is taken. -/
theorem branch (h : SameButBus R s s') (cc : Cond) (ht : SameButBus R t t') (hu : SameButBus R u u') :
    SameButBus R (if s.cond cc then t else u) (if s'.cond cc then t' else u') := by
  rw [h.cond cc]
  split
  · exact ht
  · exact hu

/-! Updates that leave memory alone. -/

theorem blind (f : State → State) (hf : MemBlind f) (h : SameButBus R s s') : SameButBus R (f s) (f s') := by
  obtain ⟨m', hm⟩ := h
  rw [hf]
  exact .withMem m' ((hf.mem_eq s).symm ▸ hm)

theorem advance (n : Nat) (h : SameButBus R s s') : SameButBus R (s.advance n) (s'.advance n) :=
  h.blind (·.advance n) fun _ _ => rfl

theorem jump (x : Word) (h : SameButBus R s s') : SameButBus R (s.jump x) (s'.jump x) :=
  h.blind (·.jump x) fun _ _ => rfl

theorem setIme (v : Bool) (h : SameButBus R s s') : SameButBus R (s.setIme v) (s'.setIme v) :=
  h.blind (·.setIme v) fun _ _ => rfl

theorem setSp (v : Word) (h : SameButBus R s s') : SameButBus R (s.setSp v) (s'.setSp v) :=
  h.blind (·.setSp v) fun _ _ => rfl

theorem setA (v : Byte) (h : SameButBus R s s') : SameButBus R (s.setA v) (s'.setA v) :=
  h.blind (·.setA v) fun _ _ => rfl

theorem setHL (v : Word) (h : SameButBus R s s') : SameButBus R (s.setHL v) (s'.setHL v) :=
  h.blind (·.setHL v) fun _ _ => rfl

theorem set16stk (rr : RStk) (v : Word) (h : SameButBus R s s') : SameButBus R (s.set16stk rr v) (s'.set16stk rr v) :=
  h.blind (·.set16stk rr v) fun _ _ => by cases rr <;> rfl

theorem setFlags (z n hc c : Bool) (h : SameButBus R s s') : SameButBus R (s.setFlags z n hc c) (s'.setFlags z n hc c) :=
  h.blind (·.setFlags z n hc c) fun _ _ => rfl

theorem accAdd (v : Byte) (c : Bool) (h : SameButBus R s s') : SameButBus R (s.accAdd v c) (s'.accAdd v c) :=
  h.blind (·.accAdd v c) fun _ _ => rfl

theorem accSub (v : Byte) (c : Bool) (h : SameButBus R s s') : SameButBus R (s.accSub v c) (s'.accSub v c) :=
  h.blind (·.accSub v c) fun _ _ => rfl

theorem accCp (v : Byte) (h : SameButBus R s s') : SameButBus R (s.accCp v) (s'.accCp v) :=
  h.blind (·.accCp v) fun _ _ => rfl

theorem accLogic (v : Byte) (hc : Bool) (h : SameButBus R s s') : SameButBus R (s.accLogic v hc) (s'.accLogic v hc) :=
  h.blind (·.accLogic v hc) fun _ _ => rfl

/-! Accesses: what a read answers is the same, and what an access leaves is related. -/

variable (hR : AnswersAlike R)
include hR

theorem read (h : SameButBus R s s') (x : Word) : s'.read x = s.read x := by
  obtain ⟨m', hm⟩ := h
  exact (hR.read hm x).symm

theorem afterRead (h : SameButBus R s s') (x : Word) : SameButBus R (s.afterRead x) (s'.afterRead x) := by
  obtain ⟨m', hm⟩ := h
  exact .withMem (m'.afterRead x) (hR.afterRead hm x)

theorem afterReads (h : SameButBus R s s') (x : Word) (n : Nat) : SameButBus R (s.afterReads x n) (s'.afterReads x n) := by
  induction n generalizing s s' x with
  | zero => exact h
  | succ n ih => exact ih (h.afterRead hR x) (x + 1)

theorem write (h : SameButBus R s s') (x : Word) (v : Byte) : SameButBus R (s.write x v) (s'.write x v) := by
  obtain ⟨m', hm⟩ := h
  exact .withMem (m'.write x v) (hR.write hm x v)

theorem top16 (h : SameButBus R s s') : s'.top16 = s.top16 := by
  have hhi := (h.afterRead hR s.sp).read hR (s.sp + 1)
  have hlo := h.read hR s.sp
  obtain ⟨m', hm⟩ := h
  have hword := congr (congrArg word hhi) hlo
  exact hword

theorem drop16 (h : SameButBus R s s') : SameButBus R s.drop16 s'.drop16 := by
  have hread := ((h.afterRead hR s.sp).afterRead hR (s.sp + 1)).setSp (s.sp + 2)
  obtain ⟨m', hm⟩ := h
  exact hread

theorem write16 (h : SameButBus R s s') (x v : Word) : SameButBus R (s.write16 x v) (s'.write16 x v) :=
  (h.write hR x (loByte v)).write hR (x + 1) (hiByte v)

theorem push16 (h : SameButBus R s s') (v : Word) : SameButBus R (s.push16 v) (s'.push16 v) := by
  have hwrite := (h.setSp (s.sp - 2)).write16 hR (s.sp - 2) v
  obtain ⟨m', hm⟩ := h
  exact hwrite

theorem get8 (h : SameButBus R s s') (r : R8) : s'.get8 r = s.get8 r := by
  have hread := h.read hR s.pairHL
  obtain ⟨m', hm⟩ := h
  cases r
  case hlInd => exact hread
  all_goals rfl

theorem afterGet8 (h : SameButBus R s s') (r : R8) : SameButBus R (s.afterGet8 r) (s'.afterGet8 r) := by
  have hread := h.afterRead hR s.pairHL
  obtain ⟨m', hm⟩ := h
  cases r
  case hlInd => exact hread
  all_goals exact .withMem m' hm

theorem set8 (h : SameButBus R s s') (r : R8) (v : Byte) : SameButBus R (s.set8 r v) (s'.set8 r v) := by
  have hwrite := h.write hR s.pairHL v
  obtain ⟨m', hm⟩ := h
  cases r
  case hlInd => exact hwrite
  all_goals exact .withMem m' hm

theorem writeShift (h : SameButBus R s s') (r : R8) (p : Byte × Bool) : SameButBus R (s.writeShift r p) (s'.writeShift r p) :=
  (h.set8 hR r p.1).setFlags _ _ _ _

end SameButBus

/-- The second next state is the first with another memory. -/
theorem NextSameButBus.exists_withMem {o o' : Host.Outcome State Fault Refusal} (h : NextSameButBus R o o') :
    ∃ t n', o = .next t ∧ o' = .next (t.withMem n') ∧ R t.mem n' := by
  obtain ⟨⟨n', hn⟩⟩ := h
  exact ⟨_, n', rfl, rfl, hn⟩

/-- A meaning that neither reads nor changes memory, so that it commutes with putting another in its place. -/
theorem NextSameButBus.blind (i : Instr) (h : SameButBus R s s')
    (hi : ∀ (s : State) (m : Memory), ∃ t, exec i s = .next t ∧ exec i (s.withMem m) = .next (t.withMem m)) :
    NextSameButBus R (exec i s) (exec i s') := by
  obtain ⟨m', hm⟩ := h
  obtain ⟨t, ht, ht'⟩ := hi s m'
  obtain ⟨v, -, hv'⟩ := hi s s.mem
  have hmem : t.mem = s.mem := by
    have e : Host.Outcome.next t = .next (v.withMem s.mem) := ht.symm.trans hv'
    cases e; rfl
  rw [ht, ht']
  exact .next (.withMem m' (hmem ▸ hm))

/-- The row of the byte 0xCB runs the row that its second byte selects (R82). -/
theorem exec_prefixCb (op2 : Byte) (s : State) : exec (.prefixCb op2) s = exec (decodeCb op2) s :=
  (cbSelect_map (exec · s) .rlc .rrc .rl .rr .sla .sra .swap .srl .bit .res .set op2).symm

/-- The second byte never selects the row of the byte 0xCB again (R66). -/
theorem decodeCb_ne_prefixCb (op2 op : Byte) : decodeCb op2 ≠ .prefixCb op := by
  refine cbSelect_all (fun i : Instr => i ≠ .prefixCb op) _ _ _ _ _ _ _ _ _ _ _ op2 (fun r => ?_) fun b r => ?_
  · exact ⟨nofun, nofun, nofun, nofun, nofun, nofun, nofun, nofun⟩
  · exact ⟨nofun, nofun, nofun⟩

end Congruence

/-- The meaning of every row but that of the byte 0xCB keeps `SameButBus`, by the rule of each operation it is built from. -/
theorem exec_sameButBus_of_ne_prefixCb {R : Memory → Memory → Prop} (hR : AnswersAlike R) {s s' : State} (hs : SameButBus R s s')
    (i : Instr) (hi : ∀ op, i ≠ .prefixCb op) : NextSameButBus R (exec i s) (exec i s') := by
  have h : ∀ n, SameButBus R (s.advance n) (s'.advance n) := fun n => hs.advance n
  have get := fun n => (h n).get8 hR
  have load := fun n => (h n).read hR
  have got := fun n => (h n).afterGet8 hR
  have hparams := hs.params
  cases hs with | withMem m' hm
  have hs : SameButBus R s (s.withMem m') := .withMem m' hm
  cases i
  case prefixCb op => exact absurd rfl (hi op)
  -- 8-bit operands: a register, or one read at HL
  case ldR8D8 dst d8 => exact .next ((h 2).set8 hR dst d8)
  case ldR8R8 dst src =>
    simp only [exec, execLdR8R8, get]
    exact .next ((got 1 src).set8 hR dst _)
  case addAR8 r | adcAR8 r =>
    simp only [exec, execAddAR8, execAdcAR8, get]
    exact .next ((got 1 r).accAdd _ _)
  case subR8 r | sbcAR8 r =>
    simp only [exec, execSubR8, execSbcAR8, get]
    exact .next ((got 1 r).accSub _ _)
  case andR8 r | xorR8 r | orR8 r =>
    simp only [exec, execAndR8, execXorR8, execOrR8, get]
    exact .next ((got 1 r).accLogic _ _)
  case cpR8 r =>
    simp only [exec, execCpR8, get]
    exact .next ((got 1 r).accCp _)
  case incR8 dst | decR8 dst =>
    simp only [exec, execIncR8, execDecR8, get]
    exact .next (((got 1 dst).set8 hR dst _).setFlags _ _ _ _)
  case rlc r | rrc r | rl r | rr r | sla r | sra r | swap r | srl r =>
    simp only [exec, execRlc, execRrc, execRl, execRr, execSla, execSra, execSwap, execSrl, get]
    exact .next ((got 2 r).writeShift hR r _)
  case bit b r =>
    simp only [exec, execBit, get]
    exact .next ((got 2 r).setFlags _ _ _ _)
  case res b r | set b r =>
    simp only [exec, execRes, execSet, get]
    exact .next ((got 2 r).set8 hR r _)
  -- loads and stores of A
  case ldABcInd | ldADeInd | ldACInd =>
    simp only [exec, execLdABcInd, execLdADeInd, execLdACInd, load]
    exact .next (((h 1).afterRead hR _).setA _)
  case ldhAA8 =>
    simp only [exec, execLdhAA8, load]
    exact .next (((h 2).afterRead hR _).setA _)
  case ldAA16 =>
    simp only [exec, execLdAA16, load]
    exact .next (((h 3).afterRead hR _).setA _)
  case ldAHlInc | ldAHlDec =>
    simp only [exec, execLdAHlInc, execLdAHlDec, load]
    exact .next ((((h 1).afterRead hR _).setA _).setHL _)
  case ldBcIndA | ldDeIndA | ldCIndA => exact .next ((h 1).write hR _ _)
  case ldhA8A => exact .next ((h 2).write hR _ _)
  case ldA16A => exact .next ((h 3).write hR _ _)
  case ldHlIncA | ldHlDecA => exact .next (((h 1).write hR _ _).setHL _)
  -- words of memory and the stack
  case ldA16Sp => exact .next ((h 3).write16 hR _ _)
  case pushRr rr => cases rr <;> exact .next ((h 1).push16 hR _)
  case popRr rr =>
    simp only [exec, execPopRr, (h 1).top16 hR]
    exact .next (((h 1).drop16 hR).set16stk rr _)
  case rst => exact .next (((h 1).push16 hR _).jump _)
  case callA16 => exact .next (((h 3).push16 hR _).jump _)
  case callCcA16 cc _ => exact .next ((h 3).branch cc (((h 3).push16 hR _).jump _) (h 3))
  case ret =>
    simp only [exec, execRet, (h 1).top16 hR]
    exact .next (((h 1).drop16 hR).jump _)
  case reti =>
    simp only [exec, execReti, (h 1).top16 hR]
    exact .next ((((h 1).drop16 hR).jump _).setIme true)
  case retCc cc =>
    simp only [exec, execRetCc, (h 1).top16 hR]
    exact .next ((h 1).branch cc (((h 1).drop16 hR).jump _) (h 1))
  -- no access
  case jpCcA16 cc _ => exact .next ((h 3).branch cc ((h 3).jump _) (h 3))
  case jrCcE8 cc _ => exact .next ((h 2).branch cc ((h 2).jump _) (h 2))
  case halt =>
    simp only [exec, execHalt, hparams]
    split
    · exact .next ((h 1).blind (·.enter .halted) fun _ _ => rfl)
    · exact .next (hs.blind (·.raiseUnimplemented 0x76#8) fun _ _ => rfl)
  case stop =>
    simp only [exec, execStop, hparams]
    split
    · exact .next ((h 2).blind (·.enter .stopped) fun _ _ => rfl)
    · exact .next (hs.blind (·.raiseUnimplemented 0x10#8) fun _ _ => rfl)
  case ldRrD16 rr _ | incRr rr | decRr rr | addHlRr rr =>
    exact .blind _ hs fun _ _ => by cases rr <;> exact ⟨_, rfl, rfl⟩
  all_goals exact .blind _ hs fun _ _ => ⟨_, rfl, rfl⟩

/-- Every meaning keeps `SameButBus`, that of the row of the byte 0xCB too. -/
theorem exec_sameButBus {R : Memory → Memory → Prop} (hR : AnswersAlike R) {s s' : State} (hs : SameButBus R s s') (i : Instr) :
    NextSameButBus R (exec i s) (exec i s') := by
  by_cases hi : ∃ op2, i = .prefixCb op2
  · obtain ⟨op2, rfl⟩ := hi
    rw [exec_prefixCb, exec_prefixCb]
    exact exec_sameButBus_of_ne_prefixCb hR hs _ (decodeCb_ne_prefixCb op2)
  · exact exec_sameButBus_of_ne_prefixCb hR hs i fun op h => hi ⟨op, h⟩

namespace SameButBus

variable {R : Memory → Memory → Prop} (hR : AnswersAlike R) {s s' : State}
include hR

theorem fetchInstr (h : SameButBus R s s') : s'.fetchInstr = s.fetchInstr := by
  have h1 := h.afterRead hR s.pc
  have h2 := h1.afterRead hR (s.pc + 1)
  rw [State.fetchInstr, State.fetchInstr, h.pc, h.read hR, h1.read hR, h2.read hR]

theorem fetchLength (h : SameButBus R s s') : s'.fetchLength = s.fetchLength := by
  rw [State.fetchLength, State.fetchLength, h.pc, h.read hR, h.params]

theorem afterFetch (h : SameButBus R s s') : SameButBus R s.afterFetch s'.afterFetch := by
  rw [State.afterFetch, State.afterFetch, h.fetchLength hR, h.pc]
  exact h.afterReads hR s.pc s.fetchLength

theorem step (h : SameButBus R s s') : NextSameButBus R (Machine.step s) (Machine.step s') := by
  have hrun : s'.run = s.run := by obtain ⟨m', hm⟩ := h; rfl
  unfold Machine.step
  rw [hrun]
  split
  · rw [h.fetchInstr hR]
    exact exec_sameButBus hR (h.afterFetch hR) s.fetchInstr
  all_goals exact .next h

theorem run (n : Nat) (h : SameButBus R s s') :
    NextSameButBus R (Host.Core.run Sys2Proof.core n s) (Host.Core.run Sys2Proof.core n s') := by
  induction n generalizing s s' with
  | zero => exact .next h
  | succ n ih =>
    obtain ⟨t, n', ht, ht', hn⟩ := (h.step hR).exists_withMem
    rw [core_run_succ n s t ht, core_run_succ n s' _ ht']
    exact ih (.withMem n' hn)

end SameButBus

/-- Settles O60: `SameButBus` is kept by every step, and so by every run. -/
theorem busSubstitution : Obligations.BusSubstitution := by
  intro R hacc n s m' hm
  have hR : AnswersAlike R :=
    { read := fun h => (hacc _ _ h).1, afterRead := fun h => (hacc _ _ h).2.1, write := fun h => (hacc _ _ h).2.2 }
  have hs : SameButBus R s (s.withMem m') := .withMem m' hm
  exact ⟨(hs.step hR).exists_withMem, (hs.run hR n).exists_withMem⟩

end Sys2Proof.Machine
end

section
/-! PROOFS. The statements of spec/10_state.md: the state after reset, the invariant at reset and under every step, the run states that
no step leaves, and the interrupt hook that nothing reads. -/

namespace Sys2Proof.Machine

open Sys2Proof.Safety

/-! ## The invariant under a step -/

/-- A masked write and no write alike leave bits 3..0 of F zero (R23). -/
theorem Effect.lowNibble {s t : State} (e : Effect s t) (h : s.f &&& 0x0F#8 = 0) : t.f &&& 0x0F#8 = 0 := by
  obtain hf | ⟨v, hf⟩ := e.f
  · rw [hf]; exact h
  · rw [hf]; exact mask_lowNibble v

/-- A transition that leaves the run state and the fault record alone keeps the invariant. -/
theorem Effect.inv_of_calm {s t : State} (e : Effect s t) (h : Inv s) (c : Calm s t) : Inv t := by
  obtain ⟨hrun, hrec⟩ := c
  exact
    { lowNibble := e.lowNibble h.lowNibble
      memory := e.mem.wf h.memory
      record := by rw [hrec, hrun]; exact h.record
      opcode := by rw [hrec, e.params]; exact h.opcode }

/-- A RUNNING state has no fault record (R30). -/
theorem faultRec_eq_none_of_running {s : State} (h : Inv s) (hrun : s.run = .running) : s.faultRec = none := by
  have hrec := h.record
  rw [hrun] at hrec
  simpa using hrec

/-- A transition that leaves the machine without a fault record and not FAULTED keeps the invariant. -/
theorem Effect.inv_of_no_record {s t : State} (e : Effect s t) (h : Inv s) (hrec : t.faultRec = none) (hrun : t.run ≠ .faulted) : Inv t where
  lowNibble := e.lowNibble h.lowNibble
  memory := e.mem.wf h.memory
  record := by simp [hrec, hrun]
  opcode := by simp [hrec]

/-- The fatal fault of an opcode that faults fills the record and enters FAULTED (R230). -/
theorem inv_raiseUnimplemented {s : State} (h : Inv s) {op : Byte} (hop : opcodeFaults s.params op) : Inv (s.raiseUnimplemented op) where
  lowNibble := h.lowNibble
  memory := h.memory
  record := by simp
  opcode := by
    intro r hr
    cases hr
    exact hop

/-- The fetch only reads the bus. -/
theorem Effect_afterFetch (s : State) : Effect s s.afterFetch := Effect_of_mem (.reads s.mem s.pc s.fetchLength) rfl rfl

theorem inv_afterFetch {s : State} (h : Inv s) : Inv s.afterFetch := (Effect_afterFetch s).inv_of_calm h ⟨rfl, rfl⟩

/-- Every meaning keeps the invariant in a RUNNING state, by what it can do to the run state and the fault record (`exec_run`). -/
theorem exec_keeps_inv {i : Instr} {s t : State} (h : Inv s) (hrun : s.run = .running) (hexec : exec i s = .next t) : Inv t := by
  have e := exec_effect i s t hexec
  have hnone := faultRec_eq_none_of_running h hrun
  obtain calm | ⟨-, hhalt, hrec⟩ | ⟨-, hstop, hrec⟩ | ⟨op, hrow, rfl⟩ | ⟨-, hparam, rfl⟩ | ⟨-, hparam, rfl⟩ := exec_run i s t hexec
  · exact e.inv_of_calm h calm
  · exact e.inv_of_no_record h (hrec.trans hnone) (by simp [hhalt])
  · exact e.inv_of_no_record h (hrec.trans hnone) (by simp [hstop])
  · exact inv_raiseUnimplemented h (.inl (List.mem_map_of_mem hrow))
  · exact inv_raiseUnimplemented h (.inr (.inl ⟨rfl, hparam⟩))
  · exact inv_raiseUnimplemented h (.inr (.inr ⟨rfl, hparam⟩))

/-- In RUNNING, a step executes the instruction at PC on what the fetch leaves (R80). -/
theorem step_of_running {s : State} (h : s.run = .running) : step s = exec s.fetchInstr s.afterFetch := by
  rw [step, h]

/-- In HALTED, STOPPED and FAULTED, a step changes nothing (R29). -/
theorem step_of_not_running {s : State} (h : s.run ≠ .running) : step s = .next s := by
  unfold step
  split
  · contradiction
  all_goals rfl

/-- Settles O49: from RUNNING the meaning of the instruction keeps the invariant; from the other run states nothing changes. -/
theorem invariantKeptByEveryStep : Obligations.InvariantKeptByEveryStep := by
  intro s t h hstep
  by_cases hrun : s.run = .running
  · rw [step_of_running hrun] at hstep
    exact exec_keeps_inv (inv_afterFetch h) hrun hstep
  · rw [step_of_not_running hrun] at hstep
    cases hstep
    exact h

/-! ## The interrupt hook

Setting IME beforehand carries through a step to setting it afterwards, or is lost where the instruction itself writes IME. -/

/-- The instructions that write IME (R28). -/
inductive WritesIme : Instr → Prop where
  | di : WritesIme .di
  | ei : WritesIme .ei
  | reti : WritesIme .reti

theorem WritesIme.eq_di_or_ei_or_reti {i : Instr} (h : WritesIme i) : i = .di ∨ i = .ei ∨ i = .reti := by
  cases h with
  | di => exact .inl rfl
  | ei => exact .inr (.inl rfl)
  | reti => exact .inr (.inr rfl)

/-- How the outcome of an instruction from a state, and its outcome from that state with IME set to `v`, are related: the second is the
first with IME set to `v`; or the instruction writes IME, and they are equal. -/
inductive ImeUnread (i : Instr) (v : Bool) : Host.Outcome State Fault Refusal → Host.Outcome State Fault Refusal → Prop where
  | kept (t : State) : ImeUnread i v (.next t) (.next (t.setIme v))
  | written (t : State) (h : WritesIme i) : ImeUnread i v (.next t) (.next t)

namespace ImeUnread

variable {i j : Instr} {v : Bool} {o o' : Host.Outcome State Fault Refusal}

theorem mono (h : ImeUnread i v o o') (hij : WritesIme i → WritesIme j) : ImeUnread j v o o' := by
  cases h with
  | kept t => exact .kept t
  | written t hi => exact .written t (hij hi)

/-- Both outcomes are next states. -/
theorem exists_next (h : ImeUnread i v o o') :
    ∃ t, o = .next t ∧ (o' = .next (t.setIme v) ∨ WritesIme i ∧ o' = .next t) := by
  cases h with
  | kept t => exact ⟨t, rfl, .inl rfl⟩
  | written t hi => exact ⟨t, rfl, .inr ⟨hi, rfl⟩⟩

theorem set8 (t : State) (r : R8) (b : Byte) : ImeUnread i v (.next (t.set8 r b)) (.next ((t.setIme v).set8 r b)) := by
  cases r <;> exact .kept _

theorem set8_setFlags (t : State) (r : R8) (b : Byte) (z n h c : Bool) :
    ImeUnread i v (.next ((t.set8 r b).setFlags z n h c)) (.next (((t.setIme v).set8 r b).setFlags z n h c)) := by
  cases r <;> exact .kept _

theorem set16 (t : State) (rr : RR) (w : Word) : ImeUnread i v (.next (t.set16 rr w)) (.next ((t.setIme v).set16 rr w)) := by
  cases rr <;> exact .kept _

theorem set16stk (t : State) (rr : RStk) (w : Word) :
    ImeUnread i v (.next (t.set16stk rr w)) (.next ((t.setIme v).set16stk rr w)) := by
  cases rr <;> exact .kept _

theorem branch (taken : Bool) (t u : State) :
    ImeUnread i v (.next (if taken then t else u)) (.next (if taken then t.setIme v else u.setIme v)) := by
  cases taken <;> exact .kept _

end ImeUnread

/-- Every row but that of the byte 0xCB: no operation it is built from reads IME, and DI, EI and RETI write a fixed value. -/
theorem exec_setIme_of_ne_prefixCb (i : Instr) (hi : ∀ op, i ≠ .prefixCb op) (s : State) (v : Bool) :
    ImeUnread i v (exec i s) (exec i (s.setIme v)) := by
  cases i
  case prefixCb op => exact absurd rfl (hi op)
  case di => exact .written _ .di
  case ei => exact .written _ .ei
  case reti => exact .written _ .reti
  case halt =>
    simp only [exec, execHalt, State.setIme_params]
    split <;> exact .kept _
  case stop =>
    simp only [exec, execStop, State.setIme_params]
    split <;> exact .kept _
  case jpCcA16 cc _ | jrCcE8 cc _ | callCcA16 cc _ | retCc cc => exact .branch (s.cond cc) _ _
  case ldR8D8 dst _ | ldR8R8 dst _ | res _ dst | set _ dst => exact .set8 _ dst _
  case incR8 dst | decR8 dst | rlc dst | rrc dst | rl dst | rr dst | sla dst | sra dst | swap dst | srl dst =>
    exact .set8_setFlags _ dst _ _ _ _ _
  case ldRrD16 rr _ | incRr rr | decRr rr => exact .set16 _ rr _
  case popRr rr => exact .set16stk _ rr _
  all_goals exact .kept _

/-- No row of the secondary space writes IME. -/
theorem decodeCb_not_writesIme (op2 : Byte) : ¬ WritesIme (decodeCb op2) :=
  cbSelect_all (¬ WritesIme ·) _ _ _ _ _ _ _ _ _ _ _ op2
    (fun _ => ⟨nofun, nofun, nofun, nofun, nofun, nofun, nofun, nofun⟩) fun _ _ => ⟨nofun, nofun, nofun⟩

/-- Every row, that of the byte 0xCB by the row its second byte selects. -/
theorem exec_setIme (i : Instr) (s : State) (v : Bool) : ImeUnread i v (exec i s) (exec i (s.setIme v)) := by
  by_cases hi : ∃ op2, i = .prefixCb op2
  · obtain ⟨op2, rfl⟩ := hi
    rw [exec_prefixCb, exec_prefixCb]
    have h := exec_setIme_of_ne_prefixCb (decodeCb op2) (decodeCb_ne_prefixCb op2) s v
    exact h.mono fun hw => absurd hw (decodeCb_not_writesIme op2)
  · exact exec_setIme_of_ne_prefixCb i (fun op h => hi ⟨op, h⟩) s v

/-- The same of a step: the fetch does not read IME, and outside RUNNING nothing happens. -/
theorem step_setIme (s : State) (v : Bool) : ImeUnread s.fetchInstr v (step s) (step (s.setIme v)) := by
  by_cases hrun : s.run = .running
  · rw [step_of_running hrun, step_of_running (s := s.setIme v) hrun]
    exact exec_setIme s.fetchInstr s.afterFetch v
  · rw [step_of_not_running hrun, step_of_not_running (s := s.setIme v) hrun]
    exact .kept s

/-- A step keeps IME or executes an instruction that writes it: setting IME to the value it has changes nothing before the step, so
nothing after it. -/
theorem ime_eq_or_writesIme {s t : State} (hstep : step s = .next t) : t.ime = s.ime ∨ WritesIme s.fetchInstr := by
  have h : ImeUnread s.fetchInstr s.ime (step s) (step s) := step_setIme s s.ime
  obtain ⟨u, -, hu | ⟨hw, -⟩⟩ := h.exists_next
  · rw [hstep] at hu
    cases hu
    exact .inl rfl
  · exact .inr hw

/-- Settles O51: `step_setIme` for the two states that differ in IME, `ime_eq_or_writesIme` for the instructions that change it. -/
theorem interruptHookIsNeverRead : Obligations.InterruptHookIsNeverRead := by
  refine fun s v => ⟨?_, fun t hstep hime => ?_⟩
  · obtain ⟨t, ht, hu | ⟨-, hu⟩⟩ := (step_setIme s v).exists_next
    · exact ⟨t, t.setIme v, ht, hu, rfl⟩
    · exact ⟨t, t, ht, hu, rfl⟩
  · obtain hkept | hw := ime_eq_or_writesIme hstep
    · exact absurd hkept hime
    · exact hw.eq_di_or_ei_or_reti

/-! ## The run states that no step leaves -/

/-- Settles O47: each step of the run answers the state it started from. -/
theorem waitAndFaultStatesAreTerminal : Obligations.WaitAndFaultStatesAreTerminal := by
  intro n s hrun
  induction n with
  | zero => rfl
  | succ n ih => rw [core_run_succ n s s (step_of_not_running hrun), ih]

/-! ## The invariant at reset -/

/-- The boot image is the low 256 addresses (R43). -/
theorem busRegion_refMap_bootImage {x : Word} (hx : x.toNat ≤ 0x00FF) : busRegion .refMap x = .bootImage := if_pos hx

/-- The bytes listed for a boot image laid out from `k` lie within it, and none is zero. -/
theorem mem_bootCells {boot : List Byte} {k : Nat} {cell : Host.Cell} (h : cell ∈ bootCells k boot) :
    k ≤ cell.1 ∧ cell.1 < k + boot.length ∧ cell.2 ≠ 0#8 := by
  induction boot generalizing k with
  | nil => cases h
  | cons v rest ih =>
    rw [bootCells] at h
    have later (hr : cell ∈ bootCells (k + 1) rest) : k ≤ cell.1 ∧ cell.1 < k + (v :: rest).length ∧ cell.2 ≠ 0#8 := by
      obtain ⟨hlo, hhi, hv⟩ := ih hr
      rw [List.length_cons]
      exact ⟨by omega, by omega, hv⟩
    split at h
    case isTrue => exact later h
    case isFalse hv =>
      obtain rfl | hr := List.mem_cons.mp h
      · simp [hv]
      · exact later hr

/-- They are listed in rising order of address. -/
theorem bootCells_rising (boot : List Byte) (k : Nat) : cellsRising (bootCells k boot) = true := by
  induction boot generalizing k with
  | nil => rfl
  | cons v rest ih =>
    rw [bootCells]
    split
    · exact ih (k + 1)
    · rw [cellsRising, Bool.and_eq_true, List.all_eq_true]
      refine ⟨fun cell hc => ?_, ih (k + 1)⟩
      obtain ⟨hlo, -⟩ := mem_bootCells hc
      exact decide_eq_true hlo

/-- A boot image of no more than 256 bytes is laid out in canonical form. -/
theorem bootCells_wf {boot : List Byte} (h : boot.length ≤ 256) : Memory.wf ⟨.refMap, bootCells 0 boot⟩ = true := by
  change Memory.cellsWf _ = true
  rw [Memory.cellsWf, Bool.and_eq_true, List.all_eq_true]
  refine ⟨bootCells_rising boot 0, fun cell hc => ?_⟩
  obtain ⟨-, hhi, hv⟩ := mem_bootCells hc
  have hregion : busRegion .refMap (BitVec.ofNat 16 cell.1) = .bootImage :=
    busRegion_refMap_bootImage (by rw [BitVec.toNat_ofNat]; omega)
  have hlt : cell.1 < 65536 := by omega
  simp [busUnlisted, hregion, Region.backed, hlt, hv]

/-- The CPU part of the construction meets the invariant over any memory in canonical form. -/
theorem inv_resetOn {mem : Memory} (params : Params) (h : mem.wf = true) : Inv (State.resetOn mem params) where
  lowNibble := by simp [State.resetOn]
  memory := h
  record := by simp [State.resetOn]
  opcode := nofun

/-- Settles O48: `inv_resetOn` over the reset memory, and over a boot image of 256 bytes. -/
theorem invariantAtReset : Obligations.InvariantAtReset := by
  refine ⟨inv_resetOn {} State.reset_mem_wf, fun boot params s hs => ?_⟩
  unfold State.construct at hs
  split at hs
  case isTrue hlen =>
    cases hs
    exact inv_resetOn params (bootCells_wf (Nat.le_of_eq hlen))
  case isFalse => cases hs

/-! ## The reset table -/

/-- Where no byte is listed, a bus the spec names reads its unlisted bytes everywhere. -/
theorem Memory.read_nil {m : Memory} (hb : ∀ k, m.bus ≠ .supplied k) (hm : m.cells = []) (x : Word) : m.read x = busUnlisted m.bus x := by
  rw [Memory.read_cells m x hb, Memory.cellRead, hm]
  exact ite_self _

/-- `RefMap` reads zero where nothing is listed, in the boot image, WRAM and HRAM (R47), and 0xFF where unmapped (R48). -/
theorem busUnlisted_refMap (x : Word) :
    busUnlisted .refMap x = if x.toNat ≤ 0x00FF ∨ storesAt .refMap x = true then 0x00#8 else 0xFF#8 := by
  unfold busUnlisted
  congr 1
  rw [eq_iff_iff]
  constructor
  · intro hb
    by_cases hx : x.toNat ≤ 0x00FF ∨ storesAt .refMap x = true
    · exact hx
    · obtain ⟨hhi, hs⟩ := not_or.mp hx
      rw [busRegion_refMap_unmapped (Bool.eq_false_iff.mpr hs) (Nat.not_le.mp hhi)] at hb
      cases hb
  · rintro (hlo | hs)
    · rw [busRegion_refMap_bootImage hlo]; rfl
    · exact Region.backed_of_writable _ ((writable_eq_storesAt .refMap x).trans hs)

/-- Settles O56: the registers as `State.resetOn` lists them, memory by what `RefMap` reads where no byte is listed. -/
theorem resetValues : Obligations.ResetValues := by
  refine ⟨rfl, rfl, rfl, rfl, rfl, rfl, rfl, rfl, rfl, rfl, rfl, rfl, rfl, rfl, rfl, rfl, fun x => ?_⟩
  rw [State.read_eq, Memory.read_nil (BusKind.ne_supplied_of_named (.inl rfl)) rfl]
  exact busUnlisted_refMap x

end Sys2Proof.Machine
end

section
/-! PROOFS. The statements of spec/20_memory.md: the regions of `RefMap`, the storage of `FlatRAM`, and words over bytes. -/

namespace Sys2Proof.Machine

open Sys2Proof.Safety

/-! ## Storage and what lies outside it -/

/-- Where a write reaches storage, the region is backed. -/
theorem backed_of_storesAt {bus : BusKind} {x : Word} (hs : storesAt bus x = true) : (busRegion bus x).backed = true :=
  Region.backed_of_writable _ ((writable_eq_storesAt bus x).trans hs)

/-- Backed storage reads the byte its cells list, and zero where none is listed. -/
theorem Memory.read_backed {m : Memory} {x : Word} (hr : (busRegion m.bus x).backed = true) :
    m.read x = (cellsGet x.toNat m.cells).getD 0 := by
  have hb : ∀ k, m.bus ≠ .supplied k := fun k hk => by rw [hk] at hr; cases hr
  rw [Memory.read_cells m x hb, Memory.cellRead, if_pos hr, busUnlisted, if_pos hr]
  rfl

/-- Where no write reaches storage of a named bus, a write changes nothing (R44, R48). -/
theorem Memory.write_dropped {m : Memory} {x : Word} (v : Byte) (hb : ∀ k, m.bus ≠ .supplied k) (hs : storesAt m.bus x = false) :
    m.write x v = m := by
  rw [Memory.write_cells m x v hb, hs]
  rfl

/-- A write that reaches storage sets the cell at its own address and no other. -/
theorem Memory.cellsGet_write {m : Memory} {x : Word} (v : Byte) (hs : storesAt m.bus x = true) (k : Nat) :
    (cellsGet k (m.write x v).cells).getD 0 = if k = x.toNat then v else (cellsGet k m.cells).getD 0 := by
  have hr := backed_of_storesAt hs
  rw [Memory.write_cells m x v (not_supplied_of_storesAt m.bus x hs), if_pos hs, Memory.cellLoad, if_pos hr, busUnlisted, if_pos hr]
  exact cellsGet_set x.toNat k v 0 m.cells

/-- A write that reaches storage above the boot image keeps every byte of the triple of R43 that does not lie at its address. -/
theorem sameBusBytes_write {m : Memory} {x : Word} (v : Byte) {exceptWram exceptHram : Option Nat} (hs : storesAt m.bus x = true)
    (hboot : 256 ≤ x.toNat) (hwram : ∀ i, i < 8192 → some i ≠ exceptWram → 0xC000 + i ≠ x.toNat)
    (hhram : ∀ i, i < 127 → some i ≠ exceptHram → 0xFF80 + i ≠ x.toNat) :
    SameBusBytes m (m.write x v) exceptWram exceptHram := by
  have other : ∀ k, k ≠ x.toNat → (cellsGet k (m.write x v).cells).getD 0 = (cellsGet k m.cells).getD 0 :=
    fun k hk => (Memory.cellsGet_write v hs k).trans (if_neg hk)
  exact ⟨fun i hi => other i (Nat.ne_of_lt (Nat.lt_of_lt_of_le hi hboot)), fun i hi hne => other _ (hwram i hi hne),
    fun i hi hne => other _ (hhram i hi hne)⟩

/-! ## The regions of `RefMap` -/

/-- The low 13 bits of a WRAM address are its offset (R45). -/
theorem wram_offset {x : Word} (hx : 0xC000 ≤ x.toNat ∧ x.toNat ≤ 0xDFFF) : 0xC000 + (x &&& 0x1FFF#16).toNat = x.toNat := by
  have hmod : (x &&& 0x1FFF#16).toNat = x.toNat % 2 ^ 13 := Nat.and_two_pow_sub_one_eq_mod x.toNat 13
  omega

/-- The low 7 bits of an HRAM address are its offset (R46). -/
theorem hram_offset {x : Word} (hx : 0xFF80 ≤ x.toNat ∧ x.toNat ≤ 0xFFFE) : 0xFF80 + (x &&& 0x7F#16).toNat = x.toNat := by
  have hmod : (x &&& 0x7F#16).toNat = x.toNat % 2 ^ 7 := Nat.and_two_pow_sub_one_eq_mod x.toNat 7
  omega

/-- Writes reach neither the boot image nor unmapped space (R44, R48). -/
theorem storesAt_refMap_eq_false {x : Word}
    (hx : x.toNat ≤ 0xBFFF ∨ 0xE000 ≤ x.toNat ∧ x.toNat ≤ 0xFF7F ∨ x.toNat = 0xFFFF) : storesAt .refMap x = false :=
  decide_eq_false (by omega)

/-- Settles O52: the boot image is backed and takes no write; a WRAM address is its offset, and a write sets that cell alone. -/
theorem bootImageAndWorkingRam : Obligations.BootImageAndWorkingRam := by
  refine fun m x v hb => ⟨fun hlo => ⟨?_, ?_⟩, fun hx => ?_⟩
  · exact Memory.read_backed (by rw [hb, busRegion_refMap_bootImage hlo]; rfl)
  · exact Memory.write_dropped v (BusKind.ne_supplied_of_named (.inl hb)) (by rw [hb]; exact storesAt_refMap_eq_false (by omega))
  · have hoff := wram_offset hx
    have hs : storesAt m.bus x = true := by rw [hb]; exact decide_eq_true (.inl hx)
    refine ⟨?_, ?_, sameBusBytes_write v hs (by omega) (fun i _ hne hi => hne ?_) (fun i _ _ => by omega)⟩
    · rw [wramByte, hoff]; exact Memory.read_backed (backed_of_storesAt hs)
    · rw [wramByte, hoff, Memory.cellsGet_write v hs, if_pos rfl]
    · exact congrArg some (by omega)

/-- Settles O53: an HRAM address is its offset, and a write sets that cell alone; unmapped space is not backed. -/
theorem highRamAndUnmappedSpace : Obligations.HighRamAndUnmappedSpace := by
  refine fun m x v hb => ⟨fun hx => ?_, fun hx => ?_⟩
  · have hoff := hram_offset hx
    have hs : storesAt m.bus x = true := by rw [hb]; exact decide_eq_true (.inr hx)
    refine ⟨by omega, ?_, ?_, sameBusBytes_write v hs (by omega) (fun i _ _ => by omega) (fun i _ hne hi => hne ?_)⟩
    · rw [hramByte, hoff]; exact Memory.read_backed (backed_of_storesAt hs)
    · rw [hramByte, hoff, Memory.cellsGet_write v hs, if_pos rfl]
    · exact congrArg some (by omega)
  · have hs : storesAt .refMap x = false := storesAt_refMap_eq_false (by omega)
    have hr : busRegion m.bus x = .unmapped := by rw [hb]; exact busRegion_refMap_unmapped hs (by omega)
    exact ⟨Memory.read_unmapped hr, Memory.write_dropped v (BusKind.ne_supplied_of_named (.inl hb)) (by rw [hb]; exact hs)⟩

/-! ## `FlatRAM` -/

/-- Settles O54: the law of a read after a write, where a write reaches storage at every address. -/
theorem flatRamStoresEveryAddress : Obligations.FlatRamStoresEveryAddress := by
  intro m x y v hb
  have hs : storesAt m.bus x = true := by rw [hb]; rfl
  rw [Memory.read_write m x y v (BusKind.ne_supplied_of_named (.inr hb))]
  simp only [hs, and_true]

/-! ## Words -/

/-- The number a word stands for: `hi * 256 + lo` (R10). -/
theorem toNat_word (hi lo : Byte) : (word hi lo).toNat = 256 * hi.toNat + lo.toNat := by
  rw [word, BitVec.toNat_append, ← Nat.shiftLeft_add_eq_or_of_lt lo.isLt, Nat.shiftLeft_eq]
  omega

/-- `read16` gives back what `write16` wrote, where writes reach both bytes (R51). -/
theorem Memory.read16_write16 {m : Memory} {x : Word} (v : Word) (hlo : storesAt m.bus x = true)
    (hhi : storesAt m.bus (x + 1) = true) : (m.write16 x v).read16 x = v := by
  have hb := not_supplied_of_storesAt m.bus x hlo
  have hne : x + 1 ≠ x := by simp
  rw [Memory.read16_named _ _ (by simpa using hb), Memory.read_write16 m x v _ hb, Memory.read_write16 m x v _ hb,
    if_neg (fun h => hne h.1), if_pos ⟨rfl, hhi⟩, if_pos ⟨rfl, hlo⟩, word_hiByte_loByte]

/-- Settles O55: `toNat_word` for both splittings, `StoresWord_of_mem` for what each byte holds, `Memory.read16_write16` to read back. -/
theorem wordAccessIsLittleEndian : Obligations.WordAccessIsLittleEndian := by
  refine fun s x v => ⟨toNat_word _ _, rfl, StoresWord_of_mem s _ x v rfl, ?_, Memory.read16_write16 v⟩
  rw [← toNat_word, word_hiByte_loByte]

end Sys2Proof.Machine
end

section
/-! PROOFS. The statements of spec/30_encoding.md: decoding undoes encoding, the words of the opcode maps, and the opcodes with no
defined operation. -/

namespace Sys2Proof

open Sys2Proof.Machine Sys2Proof.Safety

/-! ## When bytes decode to an instruction, by the length of their first (R70) -/

theorem decodes_one {op : Byte} {i : Instr} (hlen : lengthOf op = 1) (hdec : ∀ n1 n2, decodeOp op n1 n2 = i) : Decodes [op] i := by
  intro rest
  rw [List.singleton_append, decode_one op rest hlen, hdec]

theorem decodes_two {op n1 : Byte} {i : Instr} (hlen : lengthOf op = 2) (hdec : ∀ n2, decodeOp op n1 n2 = i) : Decodes [op, n1] i := by
  intro rest
  rw [List.cons_append, List.singleton_append, decode_two op n1 rest hlen, hdec]

/-- An opcode followed by a 16-bit immediate, low byte first (R64): the decoder puts the word together again. -/
theorem decodes_withWord {op : Byte} {v : Word} {f : Word → Instr} (hlen : lengthOf op = 3)
    (hdec : ∀ n1 n2, decodeOp op n1 n2 = f (word n2 n1)) : Decodes (withWord op v) (f v) := by
  intro rest
  rw [withWord, List.cons_append, List.cons_append, List.singleton_append, decode_three op _ _ rest hlen, hdec, word_hiByte_loByte]

/-- The prefix byte hands its second byte to the secondary space (R68). -/
theorem decodes_cb {op2 : Byte} {i : Instr} (hdec : decodeCb op2 = i) : Decodes [0xCB, op2] i :=
  decodes_two rfl fun _ => hdec

/-! ## The fields of a byte made of x, y and z (R61) -/

@[simp] theorem opX_opXyz (x : BitVec 2) (y z : BitVec 3) : opX (opXyz x y z) = x := by revert x y z; decide
@[simp] theorem opY_opXyz (x : BitVec 2) (y z : BitVec 3) : opY (opXyz x y z) = y := by revert x y z; decide
@[simp] theorem opZ_opXyz (x : BitVec 2) (y z : BitVec 3) : opZ (opXyz x y z) = z := by revert x y z; decide

/-- Outside `LD (HL),(HL)`, no `LD r8,r8` has the opcode of HALT (R69): its fields would be those of 0x76. -/
theorem opXyz_ne_halt {dst src : R8} (h : (Instr.ldR8R8 dst src).wellFormed = true) : opXyz 1 dst.idx src.idx ≠ 0x76#8 := by
  intro heq
  have hdst : dst = .hlInd := by rw [← R8.ofIdx_idx dst, ← opY_opXyz 1 dst.idx src.idx, heq]; rfl
  have hsrc : src = .hlInd := by rw [← R8.ofIdx_idx src, ← opZ_opXyz 1 dst.idx src.idx, heq]; rfl
  subst hdst hsrc
  cases h

/-! ## Decoding undoes encoding -/

/-- No `LD r8,r8` has an operand byte (R70). -/
theorem lengthOf_opXyz_one (y z : BitVec 3) : lengthOf (opXyz 1 y z) = 1 := by revert y z; decide

/-- No `RST` has an operand byte (R70). -/
theorem lengthOf_opXyz_rst (t : BitVec 3) : lengthOf (opXyz 3 t 7) = 1 := by revert t; decide

/-- Settles O41, row by row: an opcode that holds a register, a pair or a condition is one literal for each of them, and the rows with
two fields or a bit number are read back field by field. -/
theorem encodeThenDecode : Obligations.EncodeThenDecode := by
  intro i hwf
  cases i
  -- Rows whose operands lie in the opcode alone.
  case incRr rr | addHlRr rr | decRr rr | popRr rr | pushRr rr => cases rr <;> exact decodes_one rfl fun _ _ => rfl
  case incR8 r | decR8 r | addAR8 r | adcAR8 r | subR8 r | sbcAR8 r | andR8 r | xorR8 r | orR8 r | cpR8 r =>
    cases r <;> exact decodes_one rfl fun _ _ => rfl
  case retCc cc => cases cc <;> exact decodes_one rfl fun _ _ => rfl
  case ldR8R8 dst src =>
    exact decodes_one (lengthOf_opXyz_one _ _) fun _ _ => by simpa [decodeOp] using opXyz_ne_halt hwf
  case rst t => exact decodes_one (lengthOf_opXyz_rst t) fun _ _ => by simp [decodeOp, decodeX3]
  -- Rows with an operand byte.
  case ldR8D8 dst d8 => cases dst <;> exact decodes_two rfl fun _ => rfl
  case jrCcE8 cc e8 => cases cc <;> exact decodes_two rfl fun _ => rfl
  case stop | jrE8 | addAD8 | adcAD8 | subD8 | sbcAD8 | andD8 | xorD8 | orD8 | cpD8 | ldhA8A | addSpE8 | ldhAA8 | ldHlSpE8 =>
    exact decodes_two rfl fun _ => rfl
  -- Rows with an operand word.
  case ldRrD16 rr d16 => cases rr <;> exact decodes_withWord rfl fun _ _ => rfl
  case jpCcA16 cc a16 | callCcA16 cc a16 => cases cc <;> exact decodes_withWord rfl fun _ _ => rfl
  case ldA16Sp | jpA16 | callA16 | ldA16A | ldAA16 => exact decodes_withWord rfl fun _ _ => rfl
  -- The secondary space, and the prefix byte, which is no instruction of its own.
  case rlc | rrc | rl | rr | sla | sra | swap | srl | bit | res | set => exact decodes_cb (by simp [decodeCb, cbSelect])
  case prefixCb => cases hwf
  -- Rows without operands.
  all_goals exact decodes_one rfl fun _ _ => rfl

/-- Settles O43: each word is the encoding of its instruction. -/
theorem sampleWordsDecode : Obligations.SampleWordsDecode :=
  ⟨encodeThenDecode (.ldR8D8 .a 0x05) rfl, encodeThenDecode (.ldA16Sp 0xC000) rfl, encodeThenDecode (.adcAR8 .hlInd) rfl,
    encodeThenDecode (.andD8 0x3F) rfl, encodeThenDecode (.decR8 .hlInd) rfl, encodeThenDecode (.addHlRr .hl) rfl,
    encodeThenDecode (.addSpE8 0xF0) rfl, encodeThenDecode (.jpCcA16 .nz 0x1234) rfl, encodeThenDecode (.jrCcE8 .c 0x10) rfl,
    encodeThenDecode (.pushRr .af) rfl, encodeThenDecode .halt rfl, encodeThenDecode (.bit 7 .hlInd) rfl,
    encodeThenDecode .unimplD3 rfl⟩

/-! ## The opcodes with no defined operation -/

/-- Each undefined opcode is the whole encoding of its row (R67). -/
theorem encode_undefined : ∀ row ∈ undefinedRows, row.1.wellFormed = true ∧ encode row.1 = [row.2] := by decide

/-- Each undefined opcode means the fatal fault of that opcode (R230). -/
theorem exec_undefined (s : State) : ∀ row ∈ undefinedRows, exec row.1 s = .next (s.raiseUnimplemented row.2) := by
  simp only [undefinedRows, List.forall_mem_cons]
  exact ⟨rfl, rfl, rfl, rfl, rfl, rfl, rfl, rfl, rfl, rfl, rfl, nofun⟩

/-- Settles O40: its byte is the encoding of its row, and its meaning the fatal fault, whose effect `raiseUnimplemented_spec` says. -/
theorem undefinedOpcodesFault : Obligations.UndefinedOpcodesFault := by
  intro row hrow s
  obtain ⟨hwf, henc⟩ := encode_undefined row hrow
  obtain ⟨hreport, hframe⟩ := s.raiseUnimplemented_spec row.2
  exact ⟨henc ▸ encodeThenDecode row.1 hwf, _, exec_undefined s row hrow, rfl, rfl, rfl, hreport, hframe⟩

end Sys2Proof
end

section
/-! PROOFS. The statements of spec/40_dispatch.md: encoding undoes decoding, the prefix row, the step as fetch and execution, and the
control transfers under a condition. -/

namespace Sys2Proof.Machine

open Sys2Proof.Safety

/-! ## Encoding undoes decoding

The length of a decoded instruction need not be computed row by row: `encodeThenDecode` makes it the length that its first byte tells, so
it is enough that its encoding begins the bytes decoded. -/

/-- Bytes that decode to an instruction are as many as the first of them tells (R70). -/
theorem lengthOf_of_decodes {op : Byte} {rest : List Byte} {i : Instr} (h : Decodes (op :: rest) i) : lengthOf op = rest.length + 1 := by
  have hdec := h []
  rw [List.append_nil, decode] at hdec
  split at hdec
  case isTrue => cases hdec
  case isFalse hlen =>
    have hdrop : rest.drop (lengthOf op - 1) = [] := congrArg Prod.snd (Except.ok.inj hdec)
    rw [List.drop_eq_nil_iff] at hdrop
    have hpos := lengthOf_cases op
    omega

/-- The instruction is well-formed, and its encoding begins an opcode and the two bytes after it. -/
structure Begins (i : Instr) (op n1 n2 : Byte) : Prop where
  wf : i.wellFormed = true
  isPrefix : encode i <+: [op, n1, n2]

namespace Begins

variable {i : Instr} {op n1 n2 : Byte}

theorem one (hwf : i.wellFormed = true) (h : encode i = [op]) : Begins i op n1 n2 := ⟨hwf, [n1, n2], by rw [h]; rfl⟩

theorem two (hwf : i.wellFormed = true) (h : encode i = [op, n1]) : Begins i op n1 n2 := ⟨hwf, [n2], by rw [h]; rfl⟩

/-- A 16-bit immediate gives back the two bytes it was put together from (R64). -/
theorem three (hwf : i.wellFormed = true) (h : encode i = withWord op (word n2 n1)) : Begins i op n1 n2 :=
  ⟨hwf, [], by rw [h, withWord, loByte_word, hiByte_word]; rfl⟩

/-- Only as many of the bytes as the length of the opcode are the encoding. -/
theorem encode_eq_take (h : Begins i op n1 n2) : encode i = [op, n1, n2].take (lengthOf op) := by
  have hdec := encodeThenDecode i h.wf
  have hpre := h.isPrefix
  cases henc : encode i with
  | nil => rw [henc] at hdec; cases hdec []
  | cons op' rest =>
    rw [henc] at hdec hpre
    obtain ⟨rfl, -⟩ := List.cons_prefix_cons.mp hpre
    rw [lengthOf_of_decodes hdec]
    exact List.prefix_iff_eq_take.mp hpre

end Begins

/-! A byte is its fields x, y and z (R61), so the decoder is followed field by field: a column of eight opcodes for each x and z, in the
order of y, as the opcode maps of R65 and R66 are laid out. -/

theorem exists_opXyz (op : Byte) : ∃ x y z, op = opXyz x y z := ⟨opX op, opY op, opZ op, by revert op; decide⟩

theorem bits2_cases : ∀ x : BitVec 2, x = 0 ∨ x = 1 ∨ x = 2 ∨ x = 3 := by decide

theorem forall_bits3 {p : BitVec 3 → Prop} (h0 : p 0) (h1 : p 1) (h2 : p 2) (h3 : p 3) (h4 : p 4) (h5 : p 5) (h6 : p 6) (h7 : p 7) :
    ∀ y, p y := by
  intro y
  have hy : y = 0 ∨ y = 1 ∨ y = 2 ∨ y = 3 ∨ y = 4 ∨ y = 5 ∨ y = 6 ∨ y = 7 := by revert y; decide
  obtain rfl | rfl | rfl | rfl | rfl | rfl | rfl | rfl := hy <;> assumption

/-- The eight shifts and rotates of the secondary space (R66). -/
theorem encode_decodeCb_x0 (z : BitVec 3) : ∀ y, encode (decodeCb (opXyz 0 y z)) = [0xCB, opXyz 0 y z] := by
  apply forall_bits3 <;> simp [decodeCb, cbSelect, encode]

/-- Every row of the secondary space is the prefix and the byte that selects it (R66). -/
theorem encode_decodeCb (op2 : Byte) : encode (decodeCb op2) = [0xCB, op2] := by
  obtain ⟨x, y, z, rfl⟩ := exists_opXyz op2
  obtain rfl | rfl | rfl | rfl := bits2_cases x
  · exact encode_decodeCb_x0 z y
  all_goals simp [decodeCb, cbSelect, encode]

theorem decodeCb_wellFormed (op2 : Byte) : (decodeCb op2).wellFormed = true :=
  cbSelect_all (Instr.wellFormed · = true) _ _ _ _ _ _ _ _ _ _ _ op2
    (fun _ => ⟨rfl, rfl, rfl, rfl, rfl, rfl, rfl, rfl⟩) fun _ _ => ⟨rfl, rfl, rfl⟩

/-- Opcodes 0x00 to 0x3F (R65). -/
theorem decodeX0_begins (n1 n2 : Byte) : ∀ z y, Begins (decodeX0 (opXyz 0 y z) n1 n2) (opXyz 0 y z) n1 n2 := by
  apply forall_bits3
  -- NOP, LD (a16),SP, STOP, JR and the four JR cc
  · exact forall_bits3 (.one rfl rfl) (.three rfl rfl) (.two rfl rfl) (.two rfl rfl)
      (.two rfl rfl) (.two rfl rfl) (.two rfl rfl) (.two rfl rfl)
  -- LD rr,d16 and ADD HL,rr in turn
  · exact forall_bits3 (.three rfl rfl) (.one rfl rfl) (.three rfl rfl) (.one rfl rfl)
      (.three rfl rfl) (.one rfl rfl) (.three rfl rfl) (.one rfl rfl)
  -- The loads and stores of A through BC, DE and HL
  · apply forall_bits3 <;> exact .one rfl rfl
  -- INC rr and DEC rr in turn
  · apply forall_bits3 <;> exact .one rfl rfl
  -- INC r8
  · apply forall_bits3 <;> exact .one rfl rfl
  -- DEC r8
  · apply forall_bits3 <;> exact .one rfl rfl
  -- LD r8,d8
  · apply forall_bits3 <;> exact .two rfl rfl
  -- The rotates of A, DAA and the flags
  · apply forall_bits3 <;> exact .one rfl rfl

/-- Opcodes 0xC0 to 0xFF (R65), those of R67 and the prefix (R68) among them. -/
theorem decodeX3_begins (n1 n2 : Byte) : ∀ z y, Begins (decodeX3 (opXyz 3 y z) n1 n2) (opXyz 3 y z) n1 n2 := by
  apply forall_bits3
  -- RET cc, LDH, ADD SP,e8 and LD HL,SP+e8
  · exact forall_bits3 (.one rfl rfl) (.one rfl rfl) (.one rfl rfl) (.one rfl rfl)
      (.two rfl rfl) (.two rfl rfl) (.two rfl rfl) (.two rfl rfl)
  -- POP, RET, RETI, JP (HL) and LD SP,HL
  · apply forall_bits3 <;> exact .one rfl rfl
  -- JP cc, and the loads of A at (C) and (a16)
  · exact forall_bits3 (.three rfl rfl) (.three rfl rfl) (.three rfl rfl) (.three rfl rfl)
      (.one rfl rfl) (.three rfl rfl) (.one rfl rfl) (.three rfl rfl)
  -- JP, the prefix, four undefined opcodes, DI and EI
  · exact forall_bits3 (.three rfl rfl) (.two (decodeCb_wellFormed n1) (encode_decodeCb n1)) (.one rfl rfl) (.one rfl rfl)
      (.one rfl rfl) (.one rfl rfl) (.one rfl rfl) (.one rfl rfl)
  -- CALL cc, and four undefined opcodes
  · exact forall_bits3 (.three rfl rfl) (.three rfl rfl) (.three rfl rfl) (.three rfl rfl)
      (.one rfl rfl) (.one rfl rfl) (.one rfl rfl) (.one rfl rfl)
  -- PUSH, CALL, and three undefined opcodes
  · exact forall_bits3 (.one rfl rfl) (.three rfl rfl) (.one rfl rfl) (.one rfl rfl)
      (.one rfl rfl) (.one rfl rfl) (.one rfl rfl) (.one rfl rfl)
  -- The accumulator and an immediate
  · apply forall_bits3 <;> exact .two rfl rfl
  -- RST
  · apply forall_bits3 <;> exact .one rfl rfl

/-- `LD r8,r8` is an instruction where its opcode is not that of HALT (R69). -/
theorem wellFormed_ldR8R8 {dst src : R8} (h : opXyz 1 dst.idx src.idx ≠ 0x76#8) : (Instr.ldR8R8 dst src).wellFormed = true := by
  unfold Instr.wellFormed
  split
  case h_1 heq => cases heq; exact absurd rfl h
  case h_2 heq => cases heq
  case h_3 => rfl

/-- Opcodes 0x40 to 0x7F (R65, R69). -/
theorem decodeOp_x1_begins (y z : BitVec 3) (n1 n2 : Byte) : Begins (decodeOp (opXyz 1 y z) n1 n2) (opXyz 1 y z) n1 n2 := by
  have hdec : decodeOp (opXyz 1 y z) n1 n2 = if opXyz 1 y z = 0x76#8 then .halt else .ldR8R8 (R8.ofIdx y) (R8.ofIdx z) := by
    simp [decodeOp]
  rw [hdec]
  split
  case isTrue h => exact .one rfl (by rw [h]; rfl)
  case isFalse h => exact .one (wellFormed_ldR8R8 (by simpa using h)) (by simp [encode])

/-- The accumulator and an 8-bit operand (R63). -/
theorem decodeAluR8_row (r : R8) : ∀ y, (decodeAluR8 y r).wellFormed = true ∧ encode (decodeAluR8 y r) = [opXyz 2 y r.idx] := by
  apply forall_bits3 <;> exact ⟨rfl, rfl⟩

/-- Opcodes 0x80 to 0xBF (R65). -/
theorem decodeOp_x2_begins (y z : BitVec 3) (n1 n2 : Byte) : Begins (decodeOp (opXyz 2 y z) n1 n2) (opXyz 2 y z) n1 n2 := by
  have hdec : decodeOp (opXyz 2 y z) n1 n2 = decodeAluR8 y (R8.ofIdx z) := by simp [decodeOp]
  obtain ⟨hwf, henc⟩ := decodeAluR8_row (R8.ofIdx z) y
  rw [hdec]
  exact .one hwf (by simpa using henc)

/-- Every opcode, by its field x. -/
theorem decodeOp_begins (op n1 n2 : Byte) : Begins (decodeOp op n1 n2) op n1 n2 := by
  obtain ⟨x, y, z, rfl⟩ := exists_opXyz op
  obtain rfl | rfl | rfl | rfl := bits2_cases x
  · simpa [decodeOp] using decodeX0_begins n1 n2 z y
  · exact decodeOp_x1_begins y z n1 n2
  · exact decodeOp_x2_begins y z n1 n2
  · simpa [decodeOp] using decodeX3_begins n1 n2 z y

/-- Settles O42: the decoded instruction is well-formed and its encoding begins the bytes decoded (`decodeOp_begins`), to the length that
the opcode tells (`Begins.encode_eq_take`). -/
theorem decodeThenEncode : Obligations.DecodeThenEncode := by
  intro op n1 n2
  have h := decodeOp_begins op n1 n2
  exact ⟨h.wf, h.encode_eq_take⟩

/-! ## The prefix row -/

/-- Every row of the secondary space completes. -/
theorem exec_decodeCb_next (op2 : Byte) (s : State) : ∃ t, exec (decodeCb op2) s = .next t :=
  cbSelect_all (fun i : Instr => ∃ t, exec i s = .next t) _ _ _ _ _ _ _ _ _ _ _ op2
    (fun _ => ⟨⟨_, rfl⟩, ⟨_, rfl⟩, ⟨_, rfl⟩, ⟨_, rfl⟩, ⟨_, rfl⟩, ⟨_, rfl⟩, ⟨_, rfl⟩, ⟨_, rfl⟩⟩)
    fun _ _ => ⟨⟨_, rfl⟩, ⟨_, rfl⟩, ⟨_, rfl⟩⟩

/-- Settles O39: the meaning of the prefix row is that of the row its second byte selects (`exec_prefixCb`). -/
theorem prefixRunsSecondaryRow : Obligations.PrefixRunsSecondaryRow := by
  intro op2 s
  obtain ⟨t, ht⟩ := exec_decodeCb_next op2 s
  exact ⟨decodes_cb rfl, t, (exec_prefixCb op2 s).trans ht, ht⟩

/-! ## The step -/

/-- Three bytes are enough for any opcode, so they decode to what the decoder selects (R60, R83). -/
theorem decode_three_bytes (op n1 n2 : Byte) : decode [op, n1, n2] = .ok (decodeOp op n1 n2, [n1, n2].drop (lengthOf op - 1)) := by
  have hlen : ¬ [n1, n2].length + 1 < lengthOf op := by
    have := lengthOf_cases op
    simp only [List.length_cons, List.length_nil]
    omega
  rw [decode, if_neg hlen]
  rfl

/-- Settles O44: what the three bytes at PC decode to is the instruction fetched, and the reads of its bytes are the fetch. -/
theorem stepRunsDecodedInstruction : Obligations.StepRunsDecodedInstruction := by
  refine fun s => ⟨fun i rest hrun hdec => ?_, fun n x => ⟨rfl, rfl⟩, fun hrun => step_of_not_running ?_⟩
  · rw [decode_three_bytes] at hdec
    have hi : s.fetchInstr = i := congrArg Prod.fst (Except.ok.inj hdec)
    rw [step_of_running hrun, hi]
    rfl
  · obtain h | h | h := hrun <;> rw [h] <;> nofun

/-! ## Conditions and transfers -/

/-- A condition read off bits 7 and 4 of F is the condition of the addressing unit (R24, R90). -/
theorem taken_eq_cond (s : State) (cc : Cond) : taken s cc = s.cond cc := by
  have bits : ∀ f : Byte, (f &&& 0x80#8 == 0) = !f.getLsbD 7 ∧ (f &&& 0x80#8 != 0) = f.getLsbD 7 ∧
      (f &&& 0x10#8 == 0) = !f.getLsbD 4 ∧ (f &&& 0x10#8 != 0) = f.getLsbD 4 := by decide
  obtain ⟨hnz, hz, hnc, hc⟩ := bits s.f
  cases cc
  case nz => exact hnz
  case z => exact hz
  case nc => exact hnc
  case c => exact hc

/-- A jump changes PC alone. -/
theorem State.jump_keeps (s : State) (x : Word) : KeepsExcept [.pc] s (s.jump x) := by
  intro p hp
  cases p
  case pc => simp at hp
  case memory => exact Same_memory_of_mem s _ rfl
  case params => exact ⟨rfl, rfl⟩
  all_goals rfl

/-- A pop raises SP by 2 and changes nothing else of what its two reads leave (R171). -/
theorem State.drop16_keeps (s : State) : KeepsExcept [.sp] (s.afterRead16 s.sp) s.drop16 := by
  intro p hp
  cases p
  case sp => simp at hp
  case memory => exact Same_memory_of_mem _ _ rfl
  case params => exact ⟨rfl, rfl⟩
  all_goals rfl

/-- A call pushes the return address and jumps (R170, R177). -/
theorem State.push16_jump_spec (s : State) (ret x : Word) :
    ((s.push16 ret).jump x).pc = x ∧ ((s.push16 ret).jump x).sp = s.sp - 2 ∧
      StoresWord s ((s.push16 ret).jump x) (s.sp - 2) ret ∧ KeepsExcept [.sp, .pc, .memory] s ((s.push16 ret).jump x) := by
  obtain ⟨hsp, -, hframe⟩ := s.push16_spec ret
  refine ⟨rfl, hsp, StoresWord_of_mem _ _ _ _ rfl, ?_⟩
  exact KeepsExcept_mono _ _ _ _ (KeepsExcept_trans _ _ _ _ _ hframe (State.jump_keeps _ x)) (by decide)

/-- A return pops PC, low byte first (R171, R179). -/
theorem State.drop16_jump_spec (s : State) :
    (s.drop16.jump s.top16).pc = word ((s.afterRead s.sp).read (s.sp + 1)) (s.read s.sp) ∧ (s.drop16.jump s.top16).sp = s.sp + 2 ∧
      KeepsExcept [.sp, .pc] (s.afterRead16 s.sp) (s.drop16.jump s.top16) :=
  ⟨rfl, rfl, KeepsExcept_trans [.sp] [.pc] _ _ _ s.drop16_keeps (State.jump_keeps _ _)⟩

/-- The displacement is added to the address of the next instruction, modulo 65536 (R175). -/
theorem toNat_relative_target (pc : Word) (e : Byte) :
    ((pc + 2 + sext16 e).toNat : Int) = ((pc.toNat : Int) + 2 + e.toInt) % 65536 := by
  have hpc : (pc + 2).toNat = (pc.toNat + 2) % 65536 := BitVec.toNat_add pc 2
  rw [toNat_add_sext16, hpc]
  omega

/-! Each conditional transfer as one of two updates of the state before it: moving PC past the instruction first makes no difference to
the rest. -/

theorem exec_jpCcA16 (cc : Cond) (x : Word) (s : State) :
    exec (.jpCcA16 cc x) s = .next (s.jump (if taken s cc then x else s.pc + 3)) := by
  rw [taken_eq_cond, exec, execJpCcA16, State.cond_advance]
  split <;> rfl

theorem exec_jrCcE8 (cc : Cond) (e : Byte) (s : State) :
    exec (.jrCcE8 cc e) s = .next (s.jump (if taken s cc then s.pc + 2 + sext16 e else s.pc + 2)) := by
  rw [taken_eq_cond, exec, execJrCcE8, State.cond_advance]
  split <;> rfl

theorem exec_callCcA16 (cc : Cond) (x : Word) (s : State) :
    exec (.callCcA16 cc x) s = .next (if taken s cc then (s.push16 (s.pc + 3)).jump x else s.jump (s.pc + 3)) := by
  rw [taken_eq_cond, exec, execCallCcA16, State.cond_advance]
  rfl

theorem exec_retCc (cc : Cond) (s : State) :
    exec (.retCc cc) s = .next (if taken s cc then s.drop16.jump s.top16 else s.jump (s.pc + 1)) := by
  rw [taken_eq_cond, exec, execRetCc, State.cond_advance]
  rfl

/-- Settles O21: every outcome is a jump, which changes PC alone. -/
theorem jumpForms : Obligations.JumpForms := by
  intro cc x s
  have hdec := encodeThenDecode (.jpCcA16 cc x) rfl
  refine ⟨⟨encodeThenDecode (.jpA16 x) rfl, s.jump x, rfl, rfl, s.jump_keeps x⟩,
    ⟨?_, _, exec_jpCcA16 cc x s, rfl, s.jump_keeps _⟩, ⟨encodeThenDecode .jpHl rfl, s.jump s.pairHL, rfl, rfl, s.jump_keeps _⟩⟩
  cases cc <;> exact hdec

/-- Settles O22: every outcome is a jump, to the target of `toNat_relative_target` or to the next instruction. -/
theorem relativeJumpForms : Obligations.RelativeJumpForms := by
  intro cc e s
  have hdec := encodeThenDecode (.jrCcE8 cc e) rfl
  have htarget := toNat_relative_target s.pc e
  refine ⟨⟨encodeThenDecode (.jrE8 e) rfl, s.jump (s.pc + 2 + sext16 e), rfl, htarget, s.jump_keeps _⟩,
    ?_, _, exec_jrCcE8 cc e s, s.jump_keeps _, ?_⟩
  · cases cc <;> exact hdec
  · split
    · exact htarget
    · rfl

/-- Settles O23: a call taken is `State.push16_jump_spec`, one not taken a jump to the next instruction. -/
theorem callForms : Obligations.CallForms := by
  intro cc x s
  have hdec := encodeThenDecode (.callCcA16 cc x) rfl
  have hcall := s.push16_jump_spec (s.pc + 3) x
  refine ⟨⟨encodeThenDecode (.callA16 x) rfl, _, rfl, hcall⟩, ?_, _, exec_callCcA16 cc x s, ?_⟩
  · cases cc <;> exact hdec
  · split
    · exact hcall
    · exact ⟨rfl, s.jump_keeps _⟩

/-- Settles O24: a return taken is `State.drop16_jump_spec`, one not taken a jump to the next instruction. -/
theorem returnForms : Obligations.ReturnForms := by
  intro cc s
  have hdec := encodeThenDecode (.retCc cc) rfl
  refine ⟨⟨encodeThenDecode .ret rfl, _, rfl, s.drop16_jump_spec⟩, ?_, _, exec_retCc cc s, ?_⟩
  · cases cc <;> exact hdec
  · split
    · exact s.drop16_jump_spec
    · exact ⟨rfl, s.jump_keeps _⟩

end Sys2Proof.Machine
end

section
/-! PROOFS. The statements of spec/41_load8.md: the loads between 8-bit operands, the stores and loads of A at a named address, and those at
HL that step HL. -/

namespace Sys2Proof.Machine

open Sys2Proof.Safety

/-! ## What each update of a load leaves unchanged -/

/-- Moving PC past an instruction changes PC alone. -/
theorem State.advance_keeps (s : State) (n : Nat) : KeepsExcept [.pc] s (s.advance n) := s.jump_keeps (s.pc + BitVec.ofNat 16 n)

/-- A bus write changes memory alone, and not which bus it is. -/
theorem State.write_keeps (s : State) (x : Word) (v : Byte) : KeepsExcept [.memory] s (s.write x v) := by
  intro p hp
  cases p
  case memory => simp at hp
  case params => exact ⟨rfl, by simp⟩
  all_goals rfl

/-- A write of A is that of the operand A, so it changes A alone. -/
theorem State.setA_keeps (s : State) (v : Byte) : KeepsExcept [.a] s (s.setA v) := (s.set8_writes .a v).1

/-- A write of HL is that of the pair HL, so HL reads back and nothing else changes. -/
theorem State.setHL_spec (s : State) (v : Word) : (s.setHL v).pairHL = v ∧ KeepsExcept [.h, .l] s (s.setHL v) :=
  have ⟨hkeep, hread⟩ := s.set16_writes .hl v
  ⟨hread, hkeep⟩

/-! ## The shapes of an 8-bit load, PC moved first -/

/-- A store of A at `x` by an instruction of `n` bytes. -/
def State.storeA (s : State) (n : Nat) (x : Word) : State := (s.advance n).write x s.a

/-- A load into A of the byte at `x` by an instruction of `n` bytes. -/
def State.loadA (s : State) (n : Nat) (x : Word) : State := ((s.advance n).afterRead x).setA (s.read x)

/-- An operand written by an instruction of `n` bytes. -/
theorem State.advance_set8_spec (s : State) (n : Nat) (dst : R8) (v : Byte) :
    ((s.advance n).set8 dst v).pc = s.pc + BitVec.ofNat 16 n ∧ WritesR8 dst v [.pc] s ((s.advance n).set8 dst v) := by
  obtain ⟨hkeep, hread⟩ := (s.advance n).set8_writes dst v
  refine ⟨by simp, KeepsExcept_mono _ _ _ _ (KeepsExcept_trans _ _ _ _ _ (s.advance_keeps n) hkeep) fun p => ?_, hread⟩
  simp [or_comm]

theorem State.storeA_spec (s : State) (n : Nat) (x : Word) :
    (s.storeA n x).pc = s.pc + BitVec.ofNat 16 n ∧ StoresByte s (s.storeA n x) x s.a ∧ KeepsExcept [.pc, .memory] s (s.storeA n x) :=
  ⟨rfl, StoresByte_of_mem _ _ _ _ rfl, KeepsExcept_trans [.pc] [.memory] _ _ _ (s.advance_keeps n) (State.write_keeps _ x s.a)⟩

/-- Moving PC makes no difference to what the read leaves, so the frame is PC and then A. -/
theorem State.loadA_spec (s : State) (n : Nat) (x : Word) :
    (s.loadA n x).pc = s.pc + BitVec.ofNat 16 n ∧ (s.loadA n x).a = s.read x ∧ KeepsExcept [.a, .pc] (s.afterRead x) (s.loadA n x) :=
  have hkeep := KeepsExcept_trans _ _ _ _ _ ((s.afterRead x).advance_keeps n) (State.setA_keeps _ (s.read x))
  ⟨rfl, rfl, KeepsExcept_mono _ _ _ _ hkeep (by decide)⟩

/-- A store of A and then a write of HL (R106, R107). -/
theorem State.storeA_setHL_spec (s : State) (n : Nat) (x w : Word) :
    ((s.storeA n x).setHL w).pc = s.pc + BitVec.ofNat 16 n ∧ ((s.storeA n x).setHL w).pairHL = w ∧
      StoresByte s ((s.storeA n x).setHL w) x s.a ∧ KeepsExcept [.h, .l, .pc, .memory] s ((s.storeA n x).setHL w) := by
  obtain ⟨hpc, hstore, hkeep⟩ := s.storeA_spec n x
  obtain ⟨hhl, hset⟩ := (s.storeA n x).setHL_spec w
  exact ⟨hpc, hhl, hstore, KeepsExcept_mono _ _ _ _ (KeepsExcept_trans _ _ _ _ _ hkeep hset) (by decide)⟩

/-- A load into A and then a write of HL (R108, R109). -/
theorem State.loadA_setHL_spec (s : State) (n : Nat) (x w : Word) :
    ((s.loadA n x).setHL w).pc = s.pc + BitVec.ofNat 16 n ∧ ((s.loadA n x).setHL w).pairHL = w ∧
      ((s.loadA n x).setHL w).a = s.read x ∧ KeepsExcept [.a, .h, .l, .pc] (s.afterRead x) ((s.loadA n x).setHL w) := by
  obtain ⟨hpc, ha, hkeep⟩ := s.loadA_spec n x
  obtain ⟨hhl, hset⟩ := (s.loadA n x).setHL_spec w
  exact ⟨hpc, hhl, ha, KeepsExcept_mono _ _ _ _ (KeepsExcept_trans _ _ _ _ _ hkeep hset) (by decide)⟩

/-! ## Loads between operands -/

/-- The fields y and z put into 0x40 are those of a byte with x = 1 (R61). -/
theorem withZ_withY_eq_opXyz (y z : BitVec 3) : withZ (withY 0x40 y) z = opXyz 1 y z := by revert y z; decide

/-- The field y put into 0x06 is that of a byte with x = 0 and z = 6 (R61). -/
theorem withY_eq_opXyz (y : BitVec 3) : withY 0x06 y = opXyz 0 y 6 := by revert y; decide

/-- Any two operands that are not both `(HL)` make an instruction (R69). -/
theorem wellFormed_ldR8R8_of_ne {dst src : R8} (h : dst ≠ .hlInd ∨ src ≠ .hlInd) : (Instr.ldR8R8 dst src).wellFormed = true := by
  unfold Instr.wellFormed
  split
  case h_1 heq => cases heq; simp at h
  case h_2 heq => cases heq
  case h_3 => rfl

/-- Moving PC first makes no difference to the operand read, nor to what its read leaves. -/
theorem exec_ldR8R8 (dst src : R8) (s : State) :
    exec (.ldR8R8 dst src) s = .next (((s.afterGet8 src).advance 1).set8 dst (s.get8 src)) := by
  simp [exec, execLdR8R8]

/-- Settles O1: the instruction is one operand write to what the operand read leaves. -/
theorem loadRegisterFromRegister : Obligations.LoadRegisterFromRegister := by
  intro dst src s h
  have hdec := encodeThenDecode (.ldR8R8 dst src) (wellFormed_ldR8R8_of_ne h)
  exact ⟨withZ_withY_eq_opXyz dst.idx src.idx ▸ hdec, _, exec_ldR8R8 dst src s,
    (s.afterGet8 src).advance_set8_spec 1 dst (s.get8 src)⟩

/-- Settles O2: the instruction is one operand write, of the immediate. -/
theorem loadRegisterImmediate : Obligations.LoadRegisterImmediate := by
  intro dst n s
  have hdec := encodeThenDecode (.ldR8D8 dst n) rfl
  exact ⟨withY_eq_opXyz dst.idx ▸ hdec, _, rfl, s.advance_set8_spec 2 dst n⟩

/-! ## Stores and loads of A -/

/-- Settles O3: each form is a store of A at its own address (`State.storeA_spec`). -/
theorem storeAccumulatorForms : Obligations.StoreAccumulatorForms := fun s a8 a16 =>
  ⟨⟨encodeThenDecode .ldBcIndA rfl, s.storeA 1 s.pairBC, rfl, s.storeA_spec 1 s.pairBC⟩,
    ⟨encodeThenDecode .ldDeIndA rfl, s.storeA 1 s.pairDE, rfl, s.storeA_spec 1 s.pairDE⟩,
    ⟨encodeThenDecode (.ldhA8A a8) rfl, s.storeA 2 (hiAddr a8), rfl, s.storeA_spec 2 (hiAddr a8)⟩,
    ⟨encodeThenDecode .ldCIndA rfl, s.storeA 1 (hiAddr s.c), rfl, s.storeA_spec 1 (hiAddr s.c)⟩,
    ⟨encodeThenDecode (.ldA16A a16) rfl, s.storeA 3 a16, rfl, s.storeA_spec 3 a16⟩⟩

/-- Settles O4: each form is a load into A from its own address (`State.loadA_spec`). -/
theorem loadAccumulatorForms : Obligations.LoadAccumulatorForms := fun s a8 a16 =>
  ⟨⟨encodeThenDecode .ldABcInd rfl, s.loadA 1 s.pairBC, rfl, s.loadA_spec 1 s.pairBC⟩,
    ⟨encodeThenDecode .ldADeInd rfl, s.loadA 1 s.pairDE, rfl, s.loadA_spec 1 s.pairDE⟩,
    ⟨encodeThenDecode (.ldhAA8 a8) rfl, s.loadA 2 (hiAddr a8), rfl, s.loadA_spec 2 (hiAddr a8)⟩,
    ⟨encodeThenDecode .ldACInd rfl, s.loadA 1 (hiAddr s.c), rfl, s.loadA_spec 1 (hiAddr s.c)⟩,
    ⟨encodeThenDecode (.ldAA16 a16) rfl, s.loadA 3 a16, rfl, s.loadA_spec 3 a16⟩⟩

/-- Settles O5: each form is its access at the old HL and then a write of HL (`State.storeA_setHL_spec`, `State.loadA_setHL_spec`). -/
theorem hlStepForms : Obligations.HlStepForms := fun s =>
  ⟨⟨encodeThenDecode .ldHlIncA rfl, _, rfl, s.storeA_setHL_spec 1 s.pairHL (s.pairHL + 1)⟩,
    ⟨encodeThenDecode .ldHlDecA rfl, _, rfl, s.storeA_setHL_spec 1 s.pairHL (s.pairHL - 1)⟩,
    ⟨encodeThenDecode .ldAHlInc rfl, _, rfl, s.loadA_setHL_spec 1 s.pairHL (s.pairHL + 1)⟩,
    ⟨encodeThenDecode .ldAHlDec rfl, _, rfl, s.loadA_setHL_spec 1 s.pairHL (s.pairHL - 1)⟩⟩

end Sys2Proof.Machine
end

section
/-! PROOFS. The statements of spec/42_load16.md: the loads of a pair and of SP, and the store of SP. -/

namespace Sys2Proof.Machine

open Sys2Proof.Safety

/-! ## What a word store leaves unchanged -/

/-- The two bus writes of `write16` change memory alone, and not which bus it is (R41). -/
theorem State.write16_keeps (s : State) (x v : Word) : KeepsExcept [.memory] s (s.write16 x v) :=
  KeepsExcept_mono _ _ _ _
    (KeepsExcept_trans _ _ _ _ _ (s.write_keeps x (loByte v)) (State.write_keeps _ (x + 1) (hiByte v))) (by decide)

/-! ## The shapes of a 16-bit load, PC moved first -/

/-- A pair written by an instruction of `n` bytes. -/
theorem State.advance_set16_spec (s : State) (n : Nat) (rr : RR) (v : Word) :
    ((s.advance n).set16 rr v).pc = s.pc + BitVec.ofNat 16 n ∧ WritesRR rr v [.pc] s ((s.advance n).set16 rr v) := by
  obtain ⟨hkeep, hread⟩ := (s.advance n).set16_writes rr v
  refine ⟨by simp, KeepsExcept_mono _ _ _ _ (KeepsExcept_trans _ _ _ _ _ (s.advance_keeps n) hkeep) fun p => ?_, hread⟩
  simp [or_comm]

/-- SP written by an instruction of `n` bytes. -/
theorem State.advance_setSp_spec (s : State) (n : Nat) (v : Word) :
    ((s.advance n).setSp v).pc = s.pc + BitVec.ofNat 16 n ∧ ((s.advance n).setSp v).sp = v ∧
      KeepsExcept [.sp, .pc] s ((s.advance n).setSp v) :=
  have ⟨hpc, hkeep, hread⟩ := s.advance_set16_spec n .sp v
  ⟨hpc, hread, hkeep⟩

/-- A word stored at `x` by an instruction of `n` bytes. -/
theorem State.advance_write16_spec (s : State) (n : Nat) (x v : Word) :
    ((s.advance n).write16 x v).pc = s.pc + BitVec.ofNat 16 n ∧ StoresWord s ((s.advance n).write16 x v) x v ∧
      KeepsExcept [.pc, .memory] s ((s.advance n).write16 x v) :=
  ⟨rfl, StoresWord_of_mem _ _ _ _ rfl, KeepsExcept_trans [.pc] [.memory] _ _ _ (s.advance_keeps n) (State.write16_keeps _ x v)⟩

/-! ## Loads of a pair and of SP, and the store of SP -/

/-- The pair index put into 0x01 is that of a byte with x = 0 and the low nibble 1, which is q = 0 and z = 1 (R61). -/
theorem withP_eq_opPair (p : BitVec 2) : withP 0x01 p = opPair 0 p 1 := by revert p; decide

/-- Settles O6: the first form is one pair write, of the immediate; the second one write of SP, of HL. -/
theorem loadPairForms : Obligations.LoadPairForms := by
  intro rr v s
  have hdec := encodeThenDecode (.ldRrD16 rr v) rfl
  exact ⟨⟨withP_eq_opPair rr.idx ▸ hdec, _, rfl, s.advance_set16_spec 3 rr v⟩,
    ⟨encodeThenDecode .ldSpHl rfl, _, rfl, s.advance_setSp_spec 1 s.pairHL⟩⟩

/-- Settles O7: the instruction is one `write16` of SP at its immediate address (`State.advance_write16_spec`). -/
theorem storeStackPointer : Obligations.StoreStackPointer := fun a16 s =>
  ⟨encodeThenDecode (.ldA16Sp a16) rfl, _, rfl, s.advance_write16_spec 3 a16 s.sp⟩

end Sys2Proof.Machine
end

section
/-! PROOFS. The statements of spec/43_alu8.md: the 8-bit sums, differences and bitwise operations of A, the operand steps, and DAA and the
flag instructions. -/

namespace Sys2Proof.Machine

open Sys2Proof.Safety

/-! ## Opcodes with one operand field -/

/-- The field z put into an opcode with z = 0 is that of the byte with the same x and y (R61). -/
theorem withZ_opXyz (x : BitVec 2) (y z : BitVec 3) : withZ (opXyz x y 0) z = opXyz x y z := by revert x y z; decide

/-- The field y put into an opcode with y = 0 is that of the byte with the same x and z (R61). -/
theorem withY_opXyz (x : BitVec 2) (y z : BitVec 3) : withY (opXyz x 0 z) y = opXyz x y z := by revert x y z; decide

/-- An instruction of the grid of A and an 8-bit operand is its row's opcode with the operand at bits 2..0 (R65). -/
theorem decodes_aluRow {i : Instr} {base : Byte} {y : BitVec 3} {r : R8} (hwf : i.wellFormed = true)
    (henc : encode i = [opXyz 2 y r.idx]) (hbase : base = opXyz 2 y 0) : Decodes [withZ base r.idx] i := by
  rw [hbase, withZ_opXyz, ← henc]
  exact encodeThenDecode i hwf

/-- A step of an 8-bit operand is its column's opcode with the operand at bits 5..3 (R65). -/
theorem decodes_stepColumn {i : Instr} {base : Byte} {z : BitVec 3} {r : R8} (hwf : i.wellFormed = true)
    (henc : encode i = [opXyz 0 r.idx z]) (hbase : base = opXyz 0 0 z) : Decodes [withY base r.idx] i := by
  rw [hbase, withY_opXyz, ← henc]
  exact encodeThenDecode i hwf

/-! ## A flag line, PC moved first -/

/-- A flag line alone, by an instruction of `n` bytes. -/
theorem State.advance_setFlags_spec (s : State) (n : Nat) (z nf h c : Bool) :
    ((s.advance n).setFlags z nf h c).pc = s.pc + BitVec.ofNat 16 n ∧ FlagsAre ((s.advance n).setFlags z nf h c) z nf h c ∧
      KeepsExcept [.f, .pc] s ((s.advance n).setFlags z nf h c) := by
  obtain ⟨hflags, hkeep⟩ := (s.advance n).setFlags_spec z nf h c
  exact ⟨rfl, hflags, KeepsExcept_mono _ _ _ _ (KeepsExcept_trans _ _ _ _ _ (s.advance_keeps n) hkeep) (by decide)⟩

/-- A write of A and a flag line, by an instruction of `n` bytes. -/
theorem State.advance_setA_setFlags_spec (s : State) (n : Nat) (v : Byte) (z nf h c : Bool) :
    (((s.advance n).setA v).setFlags z nf h c).pc = s.pc + BitVec.ofNat 16 n ∧ (((s.advance n).setA v).setFlags z nf h c).a = v ∧
      FlagsAre (((s.advance n).setA v).setFlags z nf h c) z nf h c ∧
      KeepsExcept [.a, .f, .pc] s (((s.advance n).setA v).setFlags z nf h c) := by
  obtain ⟨hpc, hflags, hkeep⟩ := (s.setA v).advance_setFlags_spec n z nf h c
  exact ⟨hpc, rfl, hflags, KeepsExcept_trans [.a] [.f, .pc] _ _ _ (s.setA_keeps v) hkeep⟩

/-- A flag line leaves an operand write as it is, F aside. -/
theorem writesR8_setFlags {dst : R8} {v : Byte} {also : List Part} {s t : State} (h : WritesR8 dst v also s t) (z n hc c : Bool) :
    WritesR8 dst v (.f :: also) s (t.setFlags z n hc c) := by
  obtain ⟨hkeep, hval⟩ := h
  have hflags := (t.setFlags_spec z n hc c).2
  refine ⟨KeepsExcept_mono _ _ _ _ (KeepsExcept_trans _ _ _ _ _ hkeep hflags) fun p => ?_, ?_⟩
  · simp only [List.mem_append, List.mem_cons, List.not_mem_nil, or_false]
    rintro ((hdst | halso) | hf)
    · exact Or.inl hdst
    · exact Or.inr (Or.inr halso)
    · exact Or.inr (Or.inl hf)
  · cases dst <;> exact hval

/-! ## ADD and ADC -/

/-- What ADD and ADC do with a byte (R130), as instructions of `n` bytes. -/
theorem State.accAdd_spec (s : State) (n : Nat) (v : Byte) (cin : Bool) :
    ((s.advance n).accAdd v cin).pc = s.pc + BitVec.ofNat 16 n ∧
      ((s.advance n).accAdd v cin).a.toNat = (s.a.toNat + v.toNat + cin.toNat) % 256 ∧
      FlagsAre ((s.advance n).accAdd v cin) (decide (((s.advance n).accAdd v cin).a = 0)) false
        (decide (s.a.toNat % 16 + v.toNat % 16 + cin.toNat > 15)) (decide (s.a.toNat + v.toNat + cin.toNat > 255)) ∧
      KeepsExcept [.a, .f, .pc] s ((s.advance n).accAdd v cin) := by
  let r := add8 s.a v cin
  obtain ⟨hpc, -, hflags, hkeep⟩ := s.advance_setA_setFlags_spec n r.res (r.res == 0#8) false r.h r.c
  exact ⟨hpc, BitVec.toNat_ofNat _ 8, hflags, hkeep⟩

/-! The register forms: moving PC first makes no difference to the operand read, nor to what its read leaves. -/

theorem exec_addAR8 (r : R8) (s : State) : exec (.addAR8 r) s = .next (((s.afterGet8 r).advance 1).accAdd (s.get8 r) false) := by
  simp only [exec, execAddAR8, State.get8_advance, State.afterGet8_advance]

theorem exec_adcAR8 (r : R8) (s : State) : exec (.adcAR8 r) s = .next (((s.afterGet8 r).advance 1).accAdd (s.get8 r) s.flagC) := by
  simp only [exec, execAdcAR8, State.get8_advance, State.afterGet8_advance, State.flagC_advance]

/-- Settles O9: each form is one sum into A (`State.accAdd_spec`), from what the operand read leaves. -/
theorem addRegisterForms : Obligations.AddRegisterForms := fun r s =>
  ⟨⟨decodes_aluRow rfl rfl rfl, _, exec_addAR8 r s, (s.afterGet8 r).accAdd_spec 1 (s.get8 r) false⟩,
    ⟨decodes_aluRow rfl rfl rfl, _, exec_adcAR8 r s, (s.afterGet8 r).accAdd_spec 1 (s.get8 r) s.flagC⟩⟩

/-- Settles O10: each form is one sum into A, of the immediate. -/
theorem addImmediateForms : Obligations.AddImmediateForms := fun n s =>
  ⟨⟨encodeThenDecode (.addAD8 n) rfl, _, rfl, s.accAdd_spec 2 n false⟩,
    ⟨encodeThenDecode (.adcAD8 n) rfl, _, rfl, s.accAdd_spec 2 n s.flagC⟩⟩

/-! ## SUB, SBC and CP -/

/-- The flags of the difference `x - y - cin` (R131), in the words of the rule. -/
def FlagsOfDifference (t : State) (x y : Byte) (cin : Bool) : Prop :=
  FlagsAre t (decide (((x.toNat : Int) - y.toNat - cin.toNat) % 256 = 0)) true
    (decide (x.toNat % 16 < y.toNat % 16 + cin.toNat)) (decide (x.toNat < y.toNat + cin.toNat))

/-- `sub8` is the difference modulo 256 (R131). -/
theorem toNat_sub8_res (x y : Byte) (cin : Bool) :
    ((sub8 x y cin).res.toNat : Int) = ((x.toNat : Int) - y.toNat - cin.toNat) % 256 := by
  simp only [sub8, BitVec.toNat_ofInt]
  omega

/-- Z of a difference: whether it is 0 modulo 256. -/
theorem sub8_res_beq_zero (x y : Byte) (cin : Bool) :
    ((sub8 x y cin).res == 0#8) = decide (((x.toNat : Int) - y.toNat - cin.toNat) % 256 = 0) := by
  rw [← toNat_sub8_res, Bool.eq_iff_iff, beq_iff_eq, decide_eq_true_eq, ← BitVec.toNat_inj]
  exact Int.natCast_eq_zero.symm

/-- A flag line with the flags of `sub8` is that of the difference. -/
theorem flagsOfDifference_of_sub8 {t : State} {x y : Byte} {cin : Bool}
    (h : FlagsAre t ((sub8 x y cin).res == 0#8) true (sub8 x y cin).h (sub8 x y cin).c) : FlagsOfDifference t x y cin := by
  rw [sub8_res_beq_zero] at h
  exact h

/-- What SUB and SBC do with a byte, as instructions of `n` bytes. -/
theorem State.accSub_spec (s : State) (n : Nat) (v : Byte) (cin : Bool) :
    ((s.advance n).accSub v cin).pc = s.pc + BitVec.ofNat 16 n ∧
      (((s.advance n).accSub v cin).a.toNat : Int) = ((s.a.toNat : Int) - v.toNat - cin.toNat) % 256 ∧
      FlagsOfDifference ((s.advance n).accSub v cin) s.a v cin ∧ KeepsExcept [.a, .f, .pc] s ((s.advance n).accSub v cin) := by
  let r := sub8 s.a v cin
  obtain ⟨hpc, -, hflags, hkeep⟩ := s.advance_setA_setFlags_spec n r.res (r.res == 0#8) true r.h r.c
  exact ⟨hpc, toNat_sub8_res s.a v cin, flagsOfDifference_of_sub8 hflags, hkeep⟩

/-- What CP does with a byte, as an instruction of `n` bytes: the flags of SUB, and A is not written. -/
theorem State.accCp_spec (s : State) (n : Nat) (v : Byte) :
    ((s.advance n).accCp v).pc = s.pc + BitVec.ofNat 16 n ∧ FlagsOfDifference ((s.advance n).accCp v) s.a v false ∧
      KeepsExcept [.f, .pc] s ((s.advance n).accCp v) := by
  let r := sub8 s.a v false
  obtain ⟨hpc, hflags, hkeep⟩ := s.advance_setFlags_spec n (r.res == 0#8) true r.h r.c
  exact ⟨hpc, flagsOfDifference_of_sub8 hflags, hkeep⟩

/-! The register forms, as those of ADD. -/

theorem exec_subR8 (r : R8) (s : State) : exec (.subR8 r) s = .next (((s.afterGet8 r).advance 1).accSub (s.get8 r) false) := by
  simp only [exec, execSubR8, State.get8_advance, State.afterGet8_advance]

theorem exec_sbcAR8 (r : R8) (s : State) : exec (.sbcAR8 r) s = .next (((s.afterGet8 r).advance 1).accSub (s.get8 r) s.flagC) := by
  simp only [exec, execSbcAR8, State.get8_advance, State.afterGet8_advance, State.flagC_advance]

theorem exec_cpR8 (r : R8) (s : State) : exec (.cpR8 r) s = .next (((s.afterGet8 r).advance 1).accCp (s.get8 r)) := by
  simp only [exec, execCpR8, State.get8_advance, State.afterGet8_advance]

/-- Settles O11: SUB and SBC are one difference into A (`State.accSub_spec`), CP its flags alone (`State.accCp_spec`), from what the operand
read leaves. -/
theorem subtractRegisterForms : Obligations.SubtractRegisterForms := fun r s =>
  ⟨⟨decodes_aluRow rfl rfl rfl, _, exec_subR8 r s, (s.afterGet8 r).accSub_spec 1 (s.get8 r) false⟩,
    ⟨decodes_aluRow rfl rfl rfl, _, exec_sbcAR8 r s, (s.afterGet8 r).accSub_spec 1 (s.get8 r) s.flagC⟩,
    ⟨decodes_aluRow rfl rfl rfl, _, exec_cpR8 r s, (s.afterGet8 r).accCp_spec 1 (s.get8 r)⟩⟩

/-- Settles O12: SUB and SBC are one difference into A, CP its flags alone, of the immediate. -/
theorem subtractImmediateForms : Obligations.SubtractImmediateForms := fun n s =>
  ⟨⟨encodeThenDecode (.subD8 n) rfl, _, rfl, s.accSub_spec 2 n false⟩,
    ⟨encodeThenDecode (.sbcAD8 n) rfl, _, rfl, s.accSub_spec 2 n s.flagC⟩,
    ⟨encodeThenDecode (.cpD8 n) rfl, _, rfl, s.accCp_spec 2 n⟩⟩

/-! ## AND, XOR and OR -/

/-- What a bitwise operation does with its result, as an instruction of `n` bytes, the result given bit by bit (R132). -/
theorem State.accLogic_spec (s : State) (n : Nat) (h : Bool) {res : Byte} {bits : Nat → Bool} (hbits : ∀ k, res.getLsbD k = bits k) :
    ((s.advance n).accLogic res h).pc = s.pc + BitVec.ofNat 16 n ∧ (∀ k, ((s.advance n).accLogic res h).a.getLsbD k = bits k) ∧
      FlagsAre ((s.advance n).accLogic res h) (decide (((s.advance n).accLogic res h).a = 0)) false h false ∧
      KeepsExcept [.a, .f, .pc] s ((s.advance n).accLogic res h) := by
  obtain ⟨hpc, -, hflags, hkeep⟩ := s.advance_setA_setFlags_spec n res (res == 0#8) false h false
  exact ⟨hpc, hbits, hflags, hkeep⟩

/-! The register forms, as those of ADD. -/

theorem exec_andR8 (r : R8) (s : State) : exec (.andR8 r) s = .next (((s.afterGet8 r).advance 1).accLogic (s.a &&& s.get8 r) true) := by
  simp only [exec, execAndR8, State.get8_advance, State.afterGet8_advance, State.advance_a]

theorem exec_xorR8 (r : R8) (s : State) : exec (.xorR8 r) s = .next (((s.afterGet8 r).advance 1).accLogic (s.a ^^^ s.get8 r) false) := by
  simp only [exec, execXorR8, State.get8_advance, State.afterGet8_advance, State.advance_a]

theorem exec_orR8 (r : R8) (s : State) : exec (.orR8 r) s = .next (((s.afterGet8 r).advance 1).accLogic (s.a ||| s.get8 r) false) := by
  simp only [exec, execOrR8, State.get8_advance, State.afterGet8_advance, State.advance_a]

/-- Settles O13: each form is one bitwise result into A (`State.accLogic_spec`), from what the operand read leaves. -/
theorem logicRegisterForms : Obligations.LogicRegisterForms := fun r s =>
  ⟨⟨decodes_aluRow rfl rfl rfl, _, exec_andR8 r s, (s.afterGet8 r).accLogic_spec 1 true fun _ => BitVec.getLsbD_and⟩,
    ⟨decodes_aluRow rfl rfl rfl, _, exec_xorR8 r s, (s.afterGet8 r).accLogic_spec 1 false fun _ => BitVec.getLsbD_xor⟩,
    ⟨decodes_aluRow rfl rfl rfl, _, exec_orR8 r s, (s.afterGet8 r).accLogic_spec 1 false fun _ => BitVec.getLsbD_or⟩⟩

/-- Settles O14: each form is one bitwise result into A, of the immediate. -/
theorem logicImmediateForms : Obligations.LogicImmediateForms := fun n s =>
  ⟨⟨encodeThenDecode (.andD8 n) rfl, _, rfl, s.accLogic_spec 2 true fun _ => BitVec.getLsbD_and⟩,
    ⟨encodeThenDecode (.xorD8 n) rfl, _, rfl, s.accLogic_spec 2 false fun _ => BitVec.getLsbD_xor⟩,
    ⟨encodeThenDecode (.orD8 n) rfl, _, rfl, s.accLogic_spec 2 false fun _ => BitVec.getLsbD_or⟩⟩

/-! ## INC and DEC -/

/-- An operand takes its old value plus `k` modulo 256, with Z of the sum, C kept, and N and H as given: 1 for INC, and 255, which is one
less modulo 256, for DEC (R149, R150). -/
def State.stepOperand (s : State) (dst : R8) (k : Nat) (nf h : Bool) : State :=
  (((s.afterGet8 dst).advance 1).set8 dst (BitVec.ofNat 8 ((s.get8 dst).toNat + k))).setFlags
    (decide (((s.get8 dst).toNat + k) % 256 = 0)) nf h s.flagC

/-- One operand write and a flag line, on what the operand read leaves. -/
theorem State.stepOperand_spec (s : State) (dst : R8) (k : Nat) (nf h : Bool) :
    (s.stepOperand dst k nf h).pc = s.pc + 1 ∧
      WritesR8 dst (BitVec.ofNat 8 ((s.get8 dst).toNat + k)) [.f, .pc] (s.afterGet8 dst) (s.stepOperand dst k nf h) ∧
      FlagsAre (s.stepOperand dst k nf h) (decide (((s.get8 dst).toNat + k) % 256 = 0)) nf h s.flagC := by
  obtain ⟨hpc, hwrites⟩ := (s.afterGet8 dst).advance_set8_spec 1 dst (BitVec.ofNat 8 ((s.get8 dst).toNat + k))
  exact ⟨hpc, writesR8_setFlags hwrites _ nf h s.flagC, (State.setFlags_spec _ _ nf h s.flagC).1⟩

/-- A byte made of a number is zero where the number is 0 modulo 256. -/
theorem ofNat_beq_zero (n : Nat) : (BitVec.ofNat 8 n == 0#8) = decide (n % 256 = 0) := by
  rw [Bool.eq_iff_iff, beq_iff_eq, decide_eq_true_eq, ← BitVec.toNat_inj, BitVec.toNat_ofNat]
  rfl

/-- The low nibble of a byte is the byte modulo 16. -/
theorem and_lowNibble_beq (v w : Byte) : (v &&& 0x0F#8 == w) = decide (v.toNat % 16 = w.toNat) := by
  rw [Bool.eq_iff_iff, beq_iff_eq, decide_eq_true_eq, ← BitVec.toNat_inj, BitVec.toNat_and]
  exact iff_of_eq (congrArg (· = w.toNat) (Nat.and_two_pow_sub_one_eq_mod v.toNat 4))

theorem exec_incR8 (dst : R8) (s : State) :
    exec (.incR8 dst) s = .next (s.stepOperand dst 1 false (decide ((s.get8 dst).toNat % 16 = 15))) := by
  have hval : s.get8 dst + 1#8 = BitVec.ofNat 8 ((s.get8 dst).toNat + 1) := by
    simp [BitVec.ofNat_add]
  simp only [exec, execIncR8, State.get8_advance, State.afterGet8_advance, State.flagC_advance, hval, ofNat_beq_zero, and_lowNibble_beq]
  rfl

theorem exec_decR8 (dst : R8) (s : State) :
    exec (.decR8 dst) s = .next (s.stepOperand dst 255 true (decide ((s.get8 dst).toNat % 16 = 0))) := by
  have hval : s.get8 dst - 1#8 = BitVec.ofNat 8 ((s.get8 dst).toNat + 255) := by
    simp [BitVec.ofNat_add, BitVec.sub_eq_add_neg]
  simp only [exec, execDecR8, State.get8_advance, State.afterGet8_advance, State.flagC_advance, hval, ofNat_beq_zero, and_lowNibble_beq]
  rfl

/-- Settles O15: each form is one step of the operand (`State.stepOperand_spec`). -/
theorem stepRegisterForms : Obligations.StepRegisterForms := fun dst s =>
  ⟨⟨decodes_stepColumn rfl rfl rfl, _, exec_incR8 dst s, s.stepOperand_spec dst 1 false _⟩,
    ⟨decodes_stepColumn rfl rfl rfl, _, exec_decR8 dst s, s.stepOperand_spec dst 255 true _⟩⟩

/-! ## DAA -/

/-- A correction of the high nibble leaves the low one, so each correction after an addition can be told from the old A (R151). -/
theorem daaAdjust_add (a : Byte) (h c : Bool) :
    daaAdjust a false h c =
      (a + (if c = true ∨ a.toNat > 0x99 then 0x60#8 else 0) + (if h = true ∨ a.toNat % 16 > 9 then 0x06#8 else 0),
        c || decide (a.toNat > 0x99)) := by
  have hlow : (a + 0x60#8).toNat % 16 = a.toNat % 16 := by
    simp only [BitVec.toNat_add, BitVec.toNat_ofNat]
    omega
  simp only [daaAdjust, Bool.or_eq_true, decide_eq_true_eq, Bool.false_eq_true, if_false]
  by_cases hhigh : c = true ∨ a.toNat > 0x99
  · simp only [hhigh, if_true, hlow]
    split <;> simp
  · simp only [hhigh, if_false]
    split <;> simp

/-- After a subtraction the old H and C alone say which corrections are made (R151). -/
theorem daaAdjust_sub (a : Byte) (h c : Bool) :
    daaAdjust a true h c = (a - (if c = true then 0x60#8 else 0) - (if h = true then 0x06#8 else 0), c) := by
  cases h <;> cases c <;> simp [daaAdjust]

/-- What DAA does: one write of A and a flag line, with the result and the carry of `daaAdjust`. -/
theorem exec_daa_spec (s : State) : ∃ t, exec .daa s = .next t ∧ t.pc = s.pc + 1 ∧ KeepsExcept [.a, .f, .pc] s t ∧
    t.a = (daaAdjust s.a s.flagN s.flagH s.flagC).1 ∧
    FlagsAre t (decide (t.a = 0)) s.flagN false (daaAdjust s.a s.flagN s.flagH s.flagC).2 := by
  let r := daaAdjust s.a s.flagN s.flagH s.flagC
  obtain ⟨hpc, ha, hflags, hkeep⟩ := s.advance_setA_setFlags_spec 1 r.1 (r.1 == 0#8) s.flagN false r.2
  exact ⟨_, rfl, hpc, hkeep, ha, hflags⟩

/-- Settles O16: the correction is `daaAdjust_add` with N = 0 and `daaAdjust_sub` with N = 1. -/
theorem decimalAdjust : Obligations.DecimalAdjust := by
  intro s
  obtain ⟨t, hexec, hpc, hkeep, ha, hflags⟩ := exec_daa_spec s
  refine ⟨encodeThenDecode .daa rfl, t, hexec, hpc, hkeep, fun hn => ?_, fun hn => ?_⟩
  · rw [hn, daaAdjust_add] at ha hflags
    exact ⟨ha, hflags⟩
  · rw [hn, daaAdjust_sub] at ha hflags
    exact ⟨ha, hflags⟩

/-! ## Decimal sums and differences -/

/-- A two-digit number in BCD, as a number. -/
theorem toNat_bcd {x : Nat} (hx : x < 100) : (bcd x).toNat = x / 10 * 16 + x % 10 := by
  rw [bcd, BitVec.toNat_ofNat]
  omega

/-- DAA makes of a sum of two-digit BCD numbers their decimal sum: it corrects the high digit exactly where the sum reaches 100, and the
low one where the units do not fit one digit. -/
theorem daaAdjust_add8_bcd {x y : Nat} (hx : x < 100) (hy : y < 100) (cin : Bool) :
    daaAdjust (add8 (bcd x) (bcd y) cin).res false (add8 (bcd x) (bcd y) cin).h (add8 (bcd x) (bcd y) cin).c =
      (bcd ((x + y + cin.toNat) % 100), decide (x + y + cin.toNat ≥ 100)) := by
  have hcin := cin.toNat_le
  have hsum : x / 10 * 16 + x % 10 + (y / 10 * 16 + y % 10) + cin.toNat > 0x99 ↔ x + y + cin.toNat ≥ 100 := by omega
  generalize hr : add8 (bcd x) (bcd y) cin = r
  have hhigh : r.c = true ∨ r.res.toNat > 0x99 ↔ x + y + cin.toNat ≥ 100 := by
    subst hr
    simp only [add8, toNat_bcd hx, toNat_bcd hy, decide_eq_true_eq, BitVec.toNat_ofNat]
    omega
  have hlow : r.h = true ∨ r.res.toNat % 16 > 9 ↔ x % 10 + y % 10 + cin.toNat > 9 := by
    subst hr
    simp only [add8, toNat_bcd hx, toNat_bcd hy, decide_eq_true_eq, BitVec.toNat_ofNat]
    omega
  have hres : r.res.toNat = (x / 10 * 16 + x % 10 + (y / 10 * 16 + y % 10) + cin.toNat) % 256 := by
    subst hr
    simp only [add8, toNat_bcd hx, toNat_bcd hy, BitVec.toNat_ofNat]
  have hcarry : (r.c || decide (r.res.toNat > 0x99)) = decide (x + y + cin.toNat ≥ 100) := by
    rw [Bool.eq_iff_iff, Bool.or_eq_true, decide_eq_true_eq, decide_eq_true_eq, hhigh]
  rw [daaAdjust_add, hcarry]
  simp only [hhigh, hlow, Prod.mk.injEq, and_true]
  apply BitVec.eq_of_toNat_eq
  rw [toNat_bcd (Nat.mod_lt _ (by decide))]
  split <;> split <;> simp only [BitVec.toNat_add, BitVec.toNat_ofNat, BitVec.ofNat_eq_ofNat, hres] <;> omega

/-- DAA makes of a difference of two-digit BCD numbers their decimal difference: a digit of the bytes borrows exactly where the decimal
digit does. -/
theorem daaAdjust_sub8_bcd {x y : Nat} (hx : x < 100) (hy : y < 100) (cin : Bool) :
    daaAdjust (sub8 (bcd x) (bcd y) cin).res true (sub8 (bcd x) (bcd y) cin).h (sub8 (bcd x) (bcd y) cin).c =
      (bcd ((x + 200 - y - cin.toNat) % 100), decide (x < y + cin.toNat)) := by
  have hcin := cin.toNat_le
  have hdiff : (x + 200 - y - cin.toNat) % 100 = if x < y + cin.toNat then x + 100 - (y + cin.toNat) else x - (y + cin.toNat) := by
    split <;> omega
  have hbytes : x / 10 * 16 + x % 10 < y / 10 * 16 + y % 10 + cin.toNat ↔ x < y + cin.toNat := by omega
  have hres := toNat_sub8_res (bcd x) (bcd y) cin
  have hhigh : (sub8 (bcd x) (bcd y) cin).c = decide (x < y + cin.toNat) := by
    simp only [sub8, toNat_bcd hx, toNat_bcd hy, hbytes]
  have hlow : (sub8 (bcd x) (bcd y) cin).h = decide (x % 10 < y % 10 + cin.toNat) := by
    simp only [sub8, toNat_bcd hx, toNat_bcd hy, decide_eq_decide]
    omega
  rw [toNat_bcd hx, toNat_bcd hy] at hres
  rw [daaAdjust_sub, hhigh, hlow]
  simp only [decide_eq_true_eq, Prod.mk.injEq, and_true]
  apply BitVec.eq_of_toNat_eq
  rw [toNat_bcd (Nat.mod_lt _ (by decide)), hdiff]
  by_cases hborrow : x < y + cin.toNat
  · simp only [hborrow, if_true]
    split <;> simp only [BitVec.toNat_sub, BitVec.toNat_ofNat, BitVec.ofNat_eq_ofNat] <;> omega
  · simp only [hborrow, if_false]
    split <;> simp only [BitVec.toNat_sub, BitVec.toNat_ofNat, BitVec.ofNat_eq_ofNat] <;> omega

/-- DAA after a write of A and a flag line corrects the byte and the flags written. -/
theorem exec_daa_of_daaAdjust {v a : Byte} {nf h c carry : Bool} (hadjust : daaAdjust v nf h c = (a, carry)) (s : State) (z : Bool) :
    ∃ u, exec .daa ((s.setA v).setFlags z nf h c) = .next u ∧ u.a = a ∧ u.flagC = carry := by
  obtain ⟨u, hexec, -, -, hua, -, -, -, huc, -⟩ := exec_daa_spec ((s.setA v).setFlags z nf h c)
  simp only [State.setFlags_a, State.setA_a, State.flagN_setFlags, State.flagH_setFlags, State.flagC_setFlags, hadjust] at hua huc
  exact ⟨u, hexec, hua, huc⟩

/-- Settles O17: each form is a sum or a difference into A, which DAA corrects (`daaAdjust_add8_bcd`, `daaAdjust_sub8_bcd`). -/
theorem decimalAdjustMakesDecimalSums : Obligations.DecimalAdjustMakesDecimalSums := by
  intro s x y hx hy ha
  have hadd := daaAdjust_add8_bcd hx hy s.flagC
  have hsub := daaAdjust_sub8_bcd hx hy s.flagC
  rw [← ha] at hadd hsub
  refine ⟨⟨_, (exec_daa_of_daaAdjust hadd (s.advance 2) _).imp fun _ hu => ⟨rfl, hu⟩⟩,
    ⟨_, (exec_daa_of_daaAdjust hsub (s.advance 2) _).imp fun _ hu => ⟨rfl, hu⟩⟩, fun r hr => ?_⟩
  have hadc := exec_adcAR8 r s
  have hsbc := exec_sbcAR8 r s
  rw [hr] at hadc hsbc
  exact ⟨⟨_, (exec_daa_of_daaAdjust hadd ((s.afterGet8 r).advance 1) _).imp fun _ hu => ⟨hadc, hu⟩⟩,
    ⟨_, (exec_daa_of_daaAdjust hsub ((s.afterGet8 r).advance 1) _).imp fun _ hu => ⟨hsbc, hu⟩⟩⟩

/-! ## CPL, SCF and CCF -/

/-- Settles O18: CPL is a write of A and a flag line, SCF and CCF a flag line alone. -/
theorem complementAndCarryForms : Obligations.ComplementAndCarryForms := by
  intro s
  obtain ⟨hpc, ha, hflags, hkeep⟩ := s.advance_setA_setFlags_spec 1 (~~~s.a) s.flagZ true true s.flagC
  exact ⟨⟨encodeThenDecode .cpl rfl, _, rfl, hpc, BitVec.toNat_not, hflags, hkeep⟩,
    ⟨encodeThenDecode .scf rfl, _, rfl, s.advance_setFlags_spec 1 s.flagZ false false true⟩,
    ⟨encodeThenDecode .ccf rfl, _, rfl, s.advance_setFlags_spec 1 s.flagZ false false (!s.flagC)⟩⟩

end Sys2Proof.Machine
end

section
/-! PROOFS. The statements of spec/44_alu16.md: the steps of a pair, the sum into HL, and SP plus a displacement. -/

namespace Sys2Proof.Machine

open Sys2Proof.Safety

/-! ## Opcodes with a pair field -/

/-- The pair index put into an opcode with the index 0 is that of the byte with the same bits 7..6 and 3..0 (R61). -/
theorem withP_opPair (x p : BitVec 2) (low : BitVec 4) : withP (opPair x 0 low) p = opPair x p low := by revert x p low; decide

/-- A pair instruction is its column's opcode with the pair index at bits 5..4 (R65). -/
theorem decodes_pairColumn {i : Instr} {base : Byte} {low : BitVec 4} {rr : RR} (hwf : i.wellFormed = true)
    (henc : encode i = [opPair 0 rr.idx low]) (hbase : base = opPair 0 0 low) : Decodes [withP base rr.idx] i := by
  rw [hbase, withP_opPair, ← henc]
  exact encodeThenDecode i hwf

/-! ## Steps of a pair -/

theorem exec_incRr (rr : RR) (s : State) : exec (.incRr rr) s = .next ((s.advance 1).set16 rr (s.get16 rr + 1)) := by
  simp only [exec, execIncRr, State.get16_advance]

theorem exec_decRr (rr : RR) (s : State) : exec (.decRr rr) s = .next ((s.advance 1).set16 rr (s.get16 rr - 1)) := by
  simp only [exec, execDecRr, State.get16_advance]

/-- Settles O19: each form is one pair write, of the old value one up or one down (`State.advance_set16_spec`). -/
theorem stepPairForms : Obligations.StepPairForms := fun rr s =>
  ⟨⟨decodes_pairColumn rfl rfl rfl, _, exec_incRr rr s, s.advance_set16_spec 1 rr (s.get16 rr + 1)⟩,
    ⟨decodes_pairColumn rfl rfl rfl, _, exec_decRr rr s, s.advance_set16_spec 1 rr (s.get16 rr - 1)⟩⟩

/-! ## A pair and a flag line, PC moved first -/

/-- The flags play no part in a register pair. -/
@[simp] theorem State.get16_setFlags (s : State) (z n h c : Bool) (rr : RR) : (s.setFlags z n h c).get16 rr = s.get16 rr := by
  cases rr <;> rfl

/-- A pair write and a flag line, by an instruction of `n` bytes. -/
theorem State.advance_set16_setFlags_spec (s : State) (n : Nat) (rr : RR) (v : Word) (z nf h c : Bool) :
    (((s.advance n).set16 rr v).setFlags z nf h c).pc = s.pc + BitVec.ofNat 16 n ∧
      (((s.advance n).set16 rr v).setFlags z nf h c).get16 rr = v ∧
      FlagsAre (((s.advance n).set16 rr v).setFlags z nf h c) z nf h c ∧
      KeepsExcept (rrParts rr ++ [.f, .pc]) s (((s.advance n).set16 rr v).setFlags z nf h c) := by
  obtain ⟨hpc, hkeep, hread⟩ := s.advance_set16_spec n rr v
  obtain ⟨hflags, hkeepF⟩ := ((s.advance n).set16 rr v).setFlags_spec z nf h c
  refine ⟨hpc, (State.get16_setFlags ..).trans hread, hflags, ?_⟩
  refine KeepsExcept_mono _ _ _ _ (KeepsExcept_trans _ _ _ _ _ hkeep hkeepF) fun p => ?_
  simp [or_assoc, or_comm]

/-! ## The sum into HL -/

theorem exec_addHlRr (rr : RR) (s : State) :
    exec (.addHlRr rr) s = .next (((s.advance 1).set16 .hl (add16 s.pairHL (s.get16 rr)).res).setFlags s.flagZ false
      (add16 s.pairHL (s.get16 rr)).h (add16 s.pairHL (s.get16 rr)).c) := by
  rw [exec, execAddHlRr, State.get16_advance]
  rfl

/-- Settles O20: the form is one write of HL, of the sum, and a flag line that keeps Z. -/
theorem addPairToHl : Obligations.AddPairToHl := by
  intro rr s
  let r := add16 s.pairHL (s.get16 rr)
  obtain ⟨hpc, hhl, hflags, hkeep⟩ := s.advance_set16_setFlags_spec 1 .hl r.res s.flagZ false r.h r.c
  exact ⟨decodes_pairColumn rfl rfl rfl, _, exec_addHlRr rr s, hpc,
    (congrArg BitVec.toNat hhl).trans (BitVec.toNat_ofNat _ 16), hflags, hkeep⟩

/-! ## SP plus a displacement -/

/-- The sum of SP and a displacement put into a pair, with its flag line, by an instruction of two bytes (R160). -/
def State.loadSpSum (s : State) (rr : RR) (e : Byte) : State :=
  ((s.advance 2).set16 rr (spAddE8 s.sp e).res).setFlags false false (spAddE8 s.sp e).h (spAddE8 s.sp e).c

/-- The sum takes the displacement as a signed number, H and C as an unsigned byte. -/
theorem State.loadSpSum_spec (s : State) (rr : RR) (e : Byte) :
    (s.loadSpSum rr e).pc = s.pc + 2 ∧
      (((s.loadSpSum rr e).get16 rr).toNat : Int) = ((s.sp.toNat : Int) + e.toInt) % 65536 ∧
      FlagsAre (s.loadSpSum rr e) false false (decide (s.sp.toNat % 16 + e.toNat % 16 > 15))
        (decide (s.sp.toNat % 256 + e.toNat > 255)) ∧
      KeepsExcept (rrParts rr ++ [.f, .pc]) s (s.loadSpSum rr e) := by
  let r := spAddE8 s.sp e
  obtain ⟨hpc, hval, hflags, hkeep⟩ := s.advance_set16_setFlags_spec 2 rr r.res false false r.h r.c
  have hsum : (s.loadSpSum rr e).get16 rr = s.sp + sext16 e := hval
  exact ⟨hpc, hsum ▸ toNat_add_sext16 s.sp e, hflags, hkeep⟩

/-- Settles O8: the two forms are `State.loadSpSum` into SP and into HL. -/
theorem stackPointerOffset : Obligations.StackPointerOffset := fun e s =>
  ⟨⟨encodeThenDecode (.addSpE8 e) rfl, _, rfl, s.loadSpSum_spec .sp e⟩,
    ⟨encodeThenDecode (.ldHlSpE8 e) rfl, _, rfl, s.loadSpSum_spec .hl e⟩⟩

end Sys2Proof.Machine
end

section
/-! PROOFS. The statements of spec/45_control.md on RETI and RST, and of spec/46_stack.md: one push or pop each. -/

namespace Sys2Proof.Machine

open Sys2Proof.Safety

/-! ## What IME, F and a stack pair leave unchanged -/

/-- A write of IME changes IME alone. -/
theorem State.setIme_keeps (s : State) (v : Bool) : KeepsExcept [.ime] s (s.setIme v) := by
  intro p hp
  cases p
  case ime => simp at hp
  case memory => exact Same_memory_of_mem _ _ rfl
  case params => exact ⟨rfl, rfl⟩
  all_goals rfl

/-- A write of F changes F alone. -/
theorem State.writeF_keeps (s : State) (v : Byte) : KeepsExcept [.f] s (s.writeF v) := by
  intro p hp
  cases p
  case f => simp at hp
  case memory => exact Same_memory_of_mem _ _ rfl
  case params => exact ⟨rfl, rfl⟩
  all_goals rfl

/-- A write of a stack pair changes its two registers alone: AF is a write of A and one of F, the others are pairs of the `rr` table. -/
theorem State.set16stk_keeps (s : State) (rr : RStk) (v : Word) : KeepsExcept (rstkParts rr) s (s.set16stk rr v) := by
  cases rr
  case bc => exact (s.set16_writes .bc v).1
  case de => exact (s.set16_writes .de v).1
  case hl => exact (s.set16_writes .hl v).1
  case af => exact KeepsExcept_trans [.a] [.f] _ _ _ (s.setA_keeps (hiByte v)) (State.writeF_keeps _ (loByte v))

/-! ## RETI and RST -/

/-- Settles O25: the return is `State.drop16_jump_spec`, and IME is set after it. -/
theorem returnAndEnable : Obligations.ReturnAndEnable := by
  intro s
  obtain ⟨hpc, hsp, hkeep⟩ := s.drop16_jump_spec
  exact ⟨encodeThenDecode .reti rfl, (s.drop16.jump s.top16).setIme true, rfl, hpc, hsp, rfl,
    KeepsExcept_trans [.sp, .pc] [.ime] _ _ _ hkeep (State.setIme_keeps _ true)⟩

/-- The target of a restart is 8 times its number, with no bit lost (R182). -/
theorem toNat_restart_target (k : BitVec 3) : (k.setWidth 16 <<< 3).toNat = 8 * k.toNat := by revert k; decide

/-- Settles O26: the restart is a call (`State.push16_jump_spec`) to the address of `toNat_restart_target`. -/
theorem restartCallsFixedAddress : Obligations.RestartCallsFixedAddress := by
  intro k s
  have hop : withY 0xC7 k = opXyz 3 k 7 := withY_opXyz 3 k 7
  obtain ⟨hpc, hcall⟩ := s.push16_jump_spec (s.pc + 1) (k.setWidth 16 <<< 3)
  exact ⟨hop ▸ encodeThenDecode (.rst k) rfl, _, rfl, (congrArg BitVec.toNat hpc).trans (toNat_restart_target k), hcall⟩

/-! ## PUSH and POP

Each as one update of the state before it: the order of the move of PC past the instruction and the push or pop makes no difference. -/

theorem exec_pushRr (rr : RStk) (s : State) : exec (.pushRr rr) s = .next ((s.push16 (s.get16stk rr)).jump (s.pc + 1)) := by
  rw [exec, execPushRr, State.get16stk_advance]
  rfl

theorem exec_popRr (rr : RStk) (s : State) : exec (.popRr rr) s = .next ((s.drop16.jump (s.pc + 1)).set16stk rr s.top16) := rfl

/-- Settles O27: a push is `State.push16_jump_spec` to the next instruction; AF is read with the low nibble of F zero. -/
theorem pushPair : Obligations.PushPair := by
  intro rr s
  have hop : withP 0xC5 rr.idx = opPair 3 rr.idx 5 := withP_opPair 3 rr.idx 5
  have hpush := s.push16_jump_spec (s.get16stk rr) (s.pc + 1)
  refine ⟨hop ▸ encodeThenDecode (.pushRr rr) rfl, _, exec_pushRr rr s, ?_⟩
  cases rr <;> exact hpush

/-- Settles O28: the pair is written to what the two reads of the pop leave; its registers are the bytes of the word popped. -/
theorem popPair : Obligations.PopPair := by
  intro rr s
  have hop : withP 0xC1 rr.idx = opPair 3 rr.idx 1 := withP_opPair 3 rr.idx 1
  have hhi : hiByte s.top16 = (s.afterRead s.sp).read (s.sp + 1) := hiByte_word _ _
  have hlo : loByte s.top16 = s.read s.sp := loByte_word _ _
  refine ⟨hop ▸ encodeThenDecode (.popRr rr) rfl, _, exec_popRr rr s, State.set16stk_pc .., State.set16stk_sp .., ?_, ?_⟩
  · cases rr
    case bc | de | hl => exact ⟨hhi, hlo⟩
    case af => exact ⟨hhi, congrArg (· &&& 0xF0#8) hlo⟩
  · have hpop := KeepsExcept_trans [.sp] [.pc] _ _ _ s.drop16_keeps (s.drop16.jump_keeps (s.pc + 1))
    have hkeep := KeepsExcept_trans _ _ _ _ _ hpop (State.set16stk_keeps _ rr s.top16)
    exact KeepsExcept_mono _ _ _ _ hkeep fun p hp => List.mem_append.mpr (List.mem_append.mp hp).symm

end Sys2Proof.Machine
end

section
/-! PROOFS. The statement of spec/46_stack.md R192: a push and then a pop of the same pair. -/

namespace Sys2Proof.Machine

open Sys2Proof.Safety

/-! ## More frames -/

/-- Every piece of a state is the same as itself. -/
theorem Part.same_self (s : State) (p : Part) : p.Same s s := by
  cases p
  case memory => exact Same_memory_of_mem s s rfl
  case params => exact ⟨rfl, rfl⟩
  all_goals rfl

/-- A piece of state that is the same in the end need not be among those that may differ. -/
theorem KeepsExcept_of_cons {p : Part} {changed : List Part} {s t : State} (h : KeepsExcept (p :: changed) s t) (hp : p.Same s t) :
    KeepsExcept changed s t := by
  intro q hq
  by_cases hqp : q = p
  · exact hqp ▸ hp
  · exact h q (List.not_mem_cons_of_ne_of_not_mem hqp hq)

/-- The two reads of a word can change memory alone, and that only on a supplied bus (R50). -/
theorem State.afterRead16_keeps (s : State) (x : Word) : KeepsExcept [.memory] s (s.afterRead16 x) := by
  intro p hp
  cases p
  case memory => simp at hp
  case params => exact ⟨rfl, Memory.Accessed.bus (.read16 x .refl)⟩
  all_goals rfl

/-! ## A stack pair written with its own value -/

/-- Nothing changes, but that for AF bits 3..0 of F become zero (R23). -/
theorem State.set16stk_get16stk (s : State) (rr : RStk) :
    s.set16stk rr (s.get16stk rr) = if rr = .af then s.writeF s.f else s := by
  cases rr
  case bc => simp [State.set16stk, State.get16stk, State.setBC]
  case de => simp [State.set16stk, State.get16stk, State.setDE]
  case hl => simp [State.set16stk, State.get16stk, State.setHL]
  case af => simp [State.set16stk, State.get16stk, State.setAF, State.setA, State.writeF, BitVec.and_assoc]

/-- Bits 3..0 of F play no part in a stack pair: AF reads them as zero. -/
theorem State.get16stk_writeF_self (s : State) (rr : RStk) : (s.writeF s.f).get16stk rr = s.get16stk rr := by
  cases rr
  case bc | de | hl => rfl
  case af => simp [State.get16stk, State.writeF, BitVec.and_assoc]

/-- The pair reads as before, and F is the one piece of state that may differ. -/
theorem State.set16stk_same_spec {s : State} {rr : RStk} {v : Word} (hv : v = s.get16stk rr) :
    (s.set16stk rr v).get16stk rr = s.get16stk rr ∧ (s.set16stk rr v).f = (if rr = .af then s.f &&& 0xF0#8 else s.f) ∧
      KeepsExcept [.f] s (s.set16stk rr v) := by
  rw [hv, State.set16stk_get16stk]
  split
  case isTrue => exact ⟨s.get16stk_writeF_self rr, rfl, s.writeF_keeps s.f⟩
  case isFalse => exact ⟨rfl, rfl, fun p _ => Part.same_self s p⟩

/-! ## The bytes pushed and the word popped -/

/-- What PUSH rr leaves (`exec_pushRr`). -/
def State.afterPush (s : State) (rr : RStk) : State := (s.push16 (s.get16stk rr)).jump (s.pc + 1)

/-- The high byte is pushed just below the old SP, modulo 65536. -/
theorem sub_two_add_one (x : Word) : x - 2 + 1 = x - 1 := by bv_omega

/-- SP after the push and the pop is SP before them, modulo 65536. -/
theorem State.afterPush_drop16_sp (s : State) (rr : RStk) : (s.afterPush rr).drop16.sp = s.sp := BitVec.sub_add_cancel s.sp 2

/-- The pop returns the pair where writes reach both bytes below SP (`Memory.read16_write16`). -/
theorem State.afterPush_top16_of_storesAt {s : State} (rr : RStk) (hlo : storesAt s.mem.bus (s.sp - 2) = true)
    (hhi : storesAt s.mem.bus (s.sp - 1) = true) : (s.afterPush rr).top16 = s.get16stk rr :=
  Memory.read16_write16 (s.get16stk rr) hlo (by rwa [sub_two_add_one])

/-- The pop returns the pair on any bus where the two bytes below SP read, one after the other, as they were pushed. -/
theorem State.afterPush_top16_of_reads {s : State} {rr : RStk}
    (hlo : (s.afterPush rr).read (s.sp - 2) = loByte (s.get16stk rr))
    (hhi : ((s.afterPush rr).afterRead (s.sp - 2)).read (s.sp - 1) = hiByte (s.get16stk rr)) :
    (s.afterPush rr).top16 = s.get16stk rr := by
  rw [← sub_two_add_one] at hhi
  calc (s.afterPush rr).top16
      = word (((s.afterPush rr).afterRead (s.sp - 2)).read (s.sp - 2 + 1)) ((s.afterPush rr).read (s.sp - 2)) := rfl
    _ = word (hiByte (s.get16stk rr)) (loByte (s.get16stk rr)) := by rw [hhi, hlo]
    _ = s.get16stk rr := word_hiByte_loByte _

/-- Before the pair is written again, only PC and memory can differ from the state before the push. -/
theorem State.afterPush_drop16_jump_keeps (s : State) (rr : RStk) (x : Word) :
    KeepsExcept [.pc, .memory] s ((s.afterPush rr).drop16.jump x) := by
  obtain ⟨-, -, -, hpush⟩ := s.push16_jump_spec (s.get16stk rr) (s.pc + 1)
  have hreads := KeepsExcept_trans _ _ _ _ _ hpush ((s.afterPush rr).afterRead16_keeps (s.afterPush rr).sp)
  have hdrop := KeepsExcept_trans _ _ _ _ _ hreads (s.afterPush rr).drop16_keeps
  have hjump := KeepsExcept_trans _ _ _ _ _ hdrop ((s.afterPush rr).drop16.jump_keeps x)
  exact KeepsExcept_of_cons (p := .sp) (KeepsExcept_mono _ _ _ _ hjump (by decide)) (s.afterPush_drop16_sp rr)

/-- A push leaves every stack pair as it was. -/
theorem State.get16stk_push16_jump (s : State) (v x : Word) (rr : RStk) : ((s.push16 v).jump x).get16stk rr = s.get16stk rr := by
  cases rr <;> rfl

/-- A pop leaves every stack pair as it was until it writes its own. -/
theorem State.get16stk_drop16_jump (s : State) (x : Word) (rr : RStk) : (s.drop16.jump x).get16stk rr = s.get16stk rr := by
  cases rr <;> rfl

/-- Where the pop returns the pair, the pair is written with its own value. -/
theorem State.afterPush_pop_spec {s : State} {rr : RStk} (htop : (s.afterPush rr).top16 = s.get16stk rr) (x : Word) :
    let u := ((s.afterPush rr).drop16.jump x).set16stk rr (s.afterPush rr).top16
    u.get16stk rr = s.get16stk rr ∧ u.f = (if rr = .af then s.f &&& 0xF0#8 else s.f) ∧ KeepsExcept [.f, .pc, .memory] s u := by
  have hkeep := s.afterPush_drop16_jump_keeps rr x
  have hf : ((s.afterPush rr).drop16.jump x).f = s.f := hkeep .f (by decide)
  have hpair : ((s.afterPush rr).drop16.jump x).get16stk rr = s.get16stk rr :=
    (State.get16stk_drop16_jump _ x rr).trans (s.get16stk_push16_jump _ _ rr)
  obtain ⟨hget, hfset, hset⟩ := State.set16stk_same_spec (htop.trans hpair.symm)
  rw [hpair] at hget
  rw [hf] at hfset
  exact ⟨hget, hfset, KeepsExcept_mono _ _ _ _ (KeepsExcept_trans _ _ _ _ _ hkeep hset) (by decide)⟩

/-- Every byte but the two below SP is as before, unless the bus is supplied. -/
theorem State.afterPush_drop16_read {s : State} (hb : ∀ k, s.mem.bus ≠ .supplied k) (rr : RStk) {x : Word} (hlo : x ≠ s.sp - 2)
    (hhi : x ≠ s.sp - 1) : (s.afterPush rr).drop16.read x = s.read x := by
  obtain ⟨-, -, hstore, -⟩ := s.push16_jump_spec (s.get16stk rr) (s.pc + 1)
  have hreads : (s.afterPush rr).drop16.mem = (s.afterPush rr).mem := Memory.afterRead16_named _ _ (by simpa [State.afterPush] using hb)
  rw [← sub_two_add_one] at hhi
  calc (s.afterPush rr).drop16.read x
      = (s.afterPush rr).read x := congrArg (Memory.read · x) hreads
    _ = s.read x := by rw [State.afterPush, StoresWord_reads hstore hb, if_neg (hlo ·.1), if_neg (hhi ·.1)]

/-- Settles O29: where the two bytes read back, the pop returns the pair (`State.afterPush_top16_of_storesAt`,
`State.afterPush_top16_of_reads`) and writes it with its own value (`State.afterPush_pop_spec`). -/
theorem stackSymmetry : Obligations.StackSymmetry := by
  intro rr s
  refine ⟨s.afterPush rr, _, exec_pushRr rr s, exec_popRr rr _, ?_, ?_, ?_⟩
  · exact (State.set16stk_sp ..).trans (s.afterPush_drop16_sp rr)
  · intro hback
    refine State.afterPush_pop_spec ?_ _
    obtain ⟨hlo, hhi⟩ | ⟨hlo, hhi⟩ := hback
    · exact State.afterPush_top16_of_storesAt rr hlo hhi
    · exact State.afterPush_top16_of_reads hlo hhi
  · intro hstores _ x hlo hhi
    have hmem := State.set16stk_mem ((s.afterPush rr).drop16.jump ((s.afterPush rr).pc + 1)) rr (s.afterPush rr).top16
    exact (congrArg (Memory.read · x) hmem).trans
      (State.afterPush_drop16_read (not_supplied_of_storesAt _ _ hstores) rr hlo hhi)

end Sys2Proof.Machine
end

section
/-! PROOFS. The statements of spec/47_misc.md: NOP, HALT, STOP, DI and EI, and the rotates of A. -/

namespace Sys2Proof.Machine

open Sys2Proof.Safety

/-! ## NOP, DI and EI -/

/-- Settles O30: moving PC past an instruction changes PC alone. -/
theorem nopOnlyAdvances : Obligations.NopOnlyAdvances := fun s =>
  ⟨encodeThenDecode .nop rfl, s.advance 1, rfl, rfl, s.advance_keeps 1⟩

/-- IME written by an instruction of `n` bytes. -/
theorem State.advance_setIme_keeps (s : State) (n : Nat) (v : Bool) : KeepsExcept [.pc, .ime] s ((s.advance n).setIme v) :=
  KeepsExcept_trans [.pc] [.ime] _ _ _ (s.advance_keeps n) (State.setIme_keeps _ v)

/-- Settles O33: each form is one write of IME. -/
theorem interruptHookWrites : Obligations.InterruptHookWrites := fun s =>
  ⟨⟨encodeThenDecode .di rfl, _, rfl, rfl, rfl, s.advance_setIme_keeps 1 false⟩,
    ⟨encodeThenDecode .ei rfl, _, rfl, rfl, rfl, s.advance_setIme_keeps 1 true⟩⟩

/-! ## HALT and STOP under their parameters -/

/-- Entering a run state changes the run state alone. -/
theorem State.enter_keeps (s : State) (r : RunState) : KeepsExcept [.run] s (s.enter r) := by
  intro p hp
  cases p
  case run => simp at hp
  case memory => exact Same_memory_of_mem _ _ rfl
  case params => exact ⟨rfl, rfl⟩
  all_goals rfl

/-- A run state entered by an instruction of `n` bytes. -/
theorem State.advance_enter_keeps (s : State) (n : Nat) (r : RunState) : KeepsExcept [.pc, .run] s ((s.advance n).enter r) :=
  KeepsExcept_trans [.pc] [.run] _ _ _ (s.advance_keeps n) (State.enter_keeps _ r)

theorem exec_halt_of_stops {s : State} (h : s.params.pHalt = .haltStops) : exec .halt s = .next ((s.advance 1).enter .halted) := by
  rw [exec, execHalt, h]

theorem exec_halt_of_faults {s : State} (h : s.params.pHalt = .haltFaults) : exec .halt s = .next (s.raiseUnimplemented 0x76#8) := by
  rw [exec, execHalt, h]

theorem exec_stop_of_stops (x : Byte) {s : State} (h : s.params.pStop = .stopStops) :
    exec (.stop x) s = .next ((s.advance 2).enter .stopped) := by
  rw [exec, execStop, h]

theorem exec_stop_of_faults (x : Byte) {s : State} (h : s.params.pStop = .stopFaults) :
    exec (.stop x) s = .next (s.raiseUnimplemented 0x10#8) := by
  rw [exec, execStop, h]

/-- Settles O31: HALT enters HALTED, or takes the fatal fault (`State.raiseUnimplemented_spec`). -/
theorem haltByParameter : Obligations.HaltByParameter := by
  intro s
  refine ⟨encodeThenDecode .halt rfl, fun h => ?_, fun h => ?_⟩
  · exact ⟨_, exec_halt_of_stops h, rfl, rfl, s.advance_enter_keeps 1 .halted⟩
  · exact ⟨_, exec_halt_of_faults h, rfl, rfl, rfl, s.raiseUnimplemented_spec 0x76⟩

/-- Settles O32: STOP enters STOPPED past both its bytes, or takes the fatal fault past its first. -/
theorem stopByParameter : Obligations.StopByParameter := by
  intro x s
  refine ⟨encodeThenDecode (.stop x) rfl, fun h => ?_, fun h => ?_⟩
  · exact ⟨_, exec_stop_of_stops x h, rfl, rfl, s.advance_enter_keeps 2 .stopped⟩
  · exact ⟨_, exec_stop_of_faults x h, rfl, rfl, rfl, s.raiseUnimplemented_spec 0x10⟩

/-! ## Rotates as arithmetic

Both directions take the bit that enters as an argument: the old C, or for a rotate without the carry the bit rotated out. -/

theorem rotLeftC_eq (v : Byte) (cin : Bool) :
    rotLeftC v cin = (BitVec.ofNat 8 (2 * v.toNat + cin.toNat), decide (v.toNat ≥ 128)) := by
  revert v cin; decide

theorem rotRightC_eq (v : Byte) (cin : Bool) :
    rotRightC v cin = (BitVec.ofNat 8 (v.toNat / 2 + 128 * cin.toNat), decide (v.toNat % 2 = 1)) := by
  revert v cin; decide

/-- Bit 7 of a byte as a number. -/
theorem toNat_getLsbD_seven (v : Byte) : (v.getLsbD 7).toNat = v.toNat / 128 := by revert v; decide

/-- Bit 0 of a byte as a number. -/
theorem toNat_getLsbD_zero (v : Byte) : (v.getLsbD 0).toNat = v.toNat % 2 := by revert v; decide

theorem rotLeft_eq (v : Byte) : rotLeft v = (BitVec.ofNat 8 (2 * v.toNat + v.toNat / 128), decide (v.toNat ≥ 128)) := by
  have hrot := rotLeftC_eq v (v.getLsbD 7)
  rwa [toNat_getLsbD_seven] at hrot

theorem rotRight_eq (v : Byte) : rotRight v = (BitVec.ofNat 8 (v.toNat / 2 + 128 * (v.toNat % 2)), decide (v.toNat % 2 = 1)) := by
  have hrot := rotRightC_eq v (v.getLsbD 0)
  rwa [toNat_getLsbD_zero] at hrot

/-! ## Rotates of A -/

/-- A write of A and a flag line with Z = N = H = 0 (R200), by an instruction of `n` bytes. -/
theorem State.accRotate_spec (s : State) (n : Nat) {r : Byte × Bool} {v : Byte} {c : Bool} (hr : r = (v, c)) :
    ((s.advance n).accRotate r).pc = s.pc + BitVec.ofNat 16 n ∧ ((s.advance n).accRotate r).a = v ∧
      FlagsAre ((s.advance n).accRotate r) false false false c ∧ KeepsExcept [.a, .f, .pc] s ((s.advance n).accRotate r) :=
  hr ▸ s.advance_setA_setFlags_spec n v false false false c

/-- Settles O34: each form is `State.accRotate` of its rotate, which is arithmetic. -/
theorem accumulatorRotateForms : Obligations.AccumulatorRotateForms := fun s =>
  ⟨⟨encodeThenDecode .rlca rfl, _, rfl, s.accRotate_spec 1 (rotLeft_eq s.a)⟩,
    ⟨encodeThenDecode .rrca rfl, _, rfl, s.accRotate_spec 1 (rotRight_eq s.a)⟩,
    ⟨encodeThenDecode .rla rfl, _, rfl, s.accRotate_spec 1 (rotLeftC_eq s.a s.flagC)⟩,
    ⟨encodeThenDecode .rra rfl, _, rfl, s.accRotate_spec 1 (rotRightC_eq s.a s.flagC)⟩⟩

end Sys2Proof.Machine
end

section
/-! PROOFS. The statements of spec/48_cb_prefix.md: the rotates and shifts of an 8-bit operand, and the test, the clear and the set of one of
its bits. -/

namespace Sys2Proof.Machine

open Sys2Proof.Safety

/-! ## The opcodes of the secondary space -/

/-- A row of the secondary space is the prefix and the row's second byte with the operand at bits 2..0 (R66). -/
theorem decodes_cbRow {i : Instr} {base : Byte} {x : BitVec 2} {y : BitVec 3} {r : R8} (hwf : i.wellFormed = true)
    (henc : encode i = [0xCB, opXyz x y r.idx]) (hbase : base = opXyz x y 0) : Decodes [0xCB, withZ base r.idx] i := by
  rw [hbase, withZ_opXyz, ← henc]
  exact encodeThenDecode i hwf

/-! ## Shifts as arithmetic

A shift is a rotate that lets in 0, or for SRA bit 7. -/

theorem shiftLeft_eq (v : Byte) : shiftLeft v = (BitVec.ofNat 8 (2 * v.toNat), decide (v.toNat ≥ 128)) := by
  have hrot : shiftLeft v = rotLeftC v false := by simp [shiftLeft, rotLeftC, bitByte]
  rw [hrot]; exact rotLeftC_eq v false

theorem shiftRightL_eq (v : Byte) : shiftRightL v = (BitVec.ofNat 8 (v.toNat / 2), decide (v.toNat % 2 = 1)) := by
  have hrot : shiftRightL v = rotRightC v false := by simp [shiftRightL, rotRightC, bitByte]
  rw [hrot]; exact rotRightC_eq v false

theorem shiftRightA_eq (v : Byte) :
    shiftRightA v = (BitVec.ofNat 8 (v.toNat / 2 + 128 * (v.toNat / 128)), decide (v.toNat % 2 = 1)) := by
  have hrot : shiftRightA v = rotRightC v (v.getLsbD 7) := by revert v; decide
  rw [hrot, ← toNat_getLsbD_seven]; exact rotRightC_eq v (v.getLsbD 7)

theorem swapNibbles_eq (v : Byte) : swapNibbles v = (BitVec.ofNat 8 (v.toNat % 16 * 16 + v.toNat / 16), false) := by
  revert v; decide

/-! ## Rotates and shifts of an operand -/

/-- A meaning that writes the operand's rotate or shift back: one operand write and a flag line, on what the operand read leaves. Moving PC
first makes no difference to the operand read, nor to what its read leaves. -/
theorem exec_shift_spec {i : Instr} (r : R8) (s : State) (f : Byte → Byte × Bool)
    (hexec : exec i s = .next (((s.advance 2).afterGet8 r).writeShift r (f ((s.advance 2).get8 r))))
    {n : Nat} {c : Bool} (hf : f (s.get8 r) = (BitVec.ofNat 8 n, c)) :
    ∃ t, exec i s = .next t ∧ t.pc = s.pc + 2 ∧ WritesR8 r (BitVec.ofNat 8 n) [.f, .pc] (s.afterGet8 r) t ∧
      FlagsAre t (decide (n % 256 = 0)) false false c := by
  rw [State.get8_advance, State.afterGet8_advance, hf, State.writeShift, ofNat_beq_zero] at hexec
  obtain ⟨hpc, hwrites⟩ := (s.afterGet8 r).advance_set8_spec 2 r (BitVec.ofNat 8 n)
  exact ⟨_, hexec, hpc, writesR8_setFlags hwrites .., (State.setFlags_spec ..).1⟩

/-- Settles O35: each form writes a rotate back (`exec_shift_spec`), which is arithmetic. -/
theorem prefixedRotateForms : Obligations.PrefixedRotateForms := fun r s =>
  ⟨⟨decodes_cbRow rfl rfl rfl, exec_shift_spec r s rotLeft rfl (rotLeft_eq _)⟩,
    ⟨decodes_cbRow rfl rfl rfl, exec_shift_spec r s rotRight rfl (rotRight_eq _)⟩,
    ⟨decodes_cbRow rfl rfl rfl, exec_shift_spec r s (rotLeftC · s.flagC) rfl (rotLeftC_eq _ _)⟩,
    ⟨decodes_cbRow rfl rfl rfl, exec_shift_spec r s (rotRightC · s.flagC) rfl (rotRightC_eq _ _)⟩⟩

/-- Settles O36: each form writes a shift or the exchanged nibbles back (`exec_shift_spec`), which is arithmetic. -/
theorem prefixedShiftForms : Obligations.PrefixedShiftForms := fun r s =>
  ⟨⟨decodes_cbRow rfl rfl rfl, exec_shift_spec r s shiftLeft rfl (shiftLeft_eq _)⟩,
    ⟨decodes_cbRow rfl rfl rfl, exec_shift_spec r s shiftRightA rfl (shiftRightA_eq _)⟩,
    ⟨decodes_cbRow rfl rfl rfl, exec_shift_spec r s swapNibbles rfl (swapNibbles_eq _)⟩,
    ⟨decodes_cbRow rfl rfl rfl, exec_shift_spec r s shiftRightL rfl (shiftRightL_eq _)⟩⟩

/-! ## One bit of an operand -/

theorem exec_bit (b : BitVec 3) (r : R8) (s : State) :
    exec (.bit b r) s = .next (((s.afterGet8 r).advance 2).setFlags (!(s.get8 r).getLsbD b.toNat) false true s.flagC) := by
  simp only [exec, execBit, State.get8_advance, State.afterGet8_advance, State.flagC_advance]

theorem exec_res (b : BitVec 3) (r : R8) (s : State) :
    exec (.res b r) s = .next (((s.afterGet8 r).advance 2).set8 r (s.get8 r &&& ~~~bitMask b)) := by
  simp only [exec, execRes, State.get8_advance, State.afterGet8_advance]

theorem exec_set (b : BitVec 3) (r : R8) (s : State) :
    exec (.set b r) s = .next (((s.afterGet8 r).advance 2).set8 r (s.get8 r ||| bitMask b)) := by
  simp only [exec, execSet, State.get8_advance, State.afterGet8_advance]

/-- Settles O37: the form is a flag line alone, on what the operand read leaves. -/
theorem bitTest : Obligations.BitTest := fun b r s =>
  ⟨decodes_cbRow rfl rfl (withY_opXyz 1 b 0), _, exec_bit b r s, (s.afterGet8 r).advance_setFlags_spec 2 _ false true s.flagC⟩

/-- The mask of a bit has that bit alone. -/
theorem getLsbD_bitMask (b : BitVec 3) (k : Nat) : (bitMask b).getLsbD k = decide (k = b.toNat) := by
  have hpow : (bitMask b).getLsbD k = (decide (b.toNat < 8) && decide (b.toNat = k)) := BitVec.getLsbD_twoPow b.toNat k
  rw [hpow, decide_eq_true b.isLt, Bool.true_and, decide_eq_decide]
  exact eq_comm

/-- Clearing a bit keeps the others. -/
theorem getLsbD_and_not_bitMask (v : Byte) (b : BitVec 3) {k : Nat} (hk : k < 8) :
    (v &&& ~~~bitMask b).getLsbD k = if k = b.toNat then false else v.getLsbD k := by
  rw [BitVec.getLsbD_and, BitVec.getLsbD_not, getLsbD_bitMask]
  split <;> simp [*]

/-- Setting a bit keeps the others. -/
theorem getLsbD_or_bitMask (v : Byte) (b : BitVec 3) (k : Nat) :
    (v ||| bitMask b).getLsbD k = if k = b.toNat then true else v.getLsbD k := by
  rw [BitVec.getLsbD_or, getLsbD_bitMask]
  split <;> simp [*]

/-- Settles O38: each form is one operand write, with one bit cleared or set and no flag line. -/
theorem bitClearAndSet : Obligations.BitClearAndSet := by
  intro b r s
  obtain ⟨hpcRes, hres⟩ := (s.afterGet8 r).advance_set8_spec 2 r (s.get8 r &&& ~~~bitMask b)
  obtain ⟨hpcSet, hset⟩ := (s.afterGet8 r).advance_set8_spec 2 r (s.get8 r ||| bitMask b)
  exact ⟨⟨decodes_cbRow rfl rfl (withY_opXyz 2 b 0), _, exec_res b r s, hpcRes, _, fun _ => getLsbD_and_not_bitMask _ b, hres⟩,
    ⟨decodes_cbRow rfl rfl (withY_opXyz 3 b 0), _, exec_set b r s, hpcSet, _, fun k _ => getLsbD_or_bitMask _ b k, hset⟩⟩

end Sys2Proof.Machine
end

section
/-! PROOFS. The statements of spec/60_exceptions.md: every step completes, and it ends FAULTED exactly from an opcode that faults. -/

namespace Sys2Proof.Machine

open Sys2Proof.Safety

/-! ## Every step completes -/

/-- Every meaning answers a next state: HALT and STOP under either parameter, the prefix row by the row it selects. -/
theorem exec_next (i : Instr) (s : State) : ∃ t, exec i s = .next t := by
  cases i
  case halt =>
    cases h : s.params.pHalt
    · exact ⟨_, exec_halt_of_stops h⟩
    · exact ⟨_, exec_halt_of_faults h⟩
  case stop x =>
    cases h : s.params.pStop
    · exact ⟨_, exec_stop_of_stops x h⟩
    · exact ⟨_, exec_stop_of_faults x h⟩
  case prefixCb op2 => rw [exec_prefixCb]; exact exec_decodeCb_next op2 s
  all_goals exact ⟨_, rfl⟩

theorem step_next (s : State) : ∃ t, step s = .next t := by
  by_cases hrun : s.run = .running
  · rw [step_of_running hrun]; exact exec_next s.fetchInstr s.afterFetch
  · exact ⟨s, step_of_not_running hrun⟩

/-- Settles O45: a step completes in every run state (`step_next`), and so does a run, by induction on its steps. -/
theorem stepAlwaysCompletes : Obligations.StepAlwaysCompletes := by
  refine ⟨step_next, fun n => ?_⟩
  induction n with
  | zero => exact fun s => ⟨s, rfl⟩
  | succ n ih =>
    intro s
    obtain ⟨t, ht⟩ := step_next s
    rw [core_run_succ n s t ht]
    exact ih t

/-! ## Which steps end FAULTED -/

/-- The encoding of the instruction fetched begins with the byte at PC. -/
theorem head?_encode_fetchInstr (s : State) : (encode s.fetchInstr).head? = some (s.read s.pc) := by
  have hpos : lengthOf (s.read s.pc) ≠ 0 := by have := lengthOf_cases (s.read s.pc); omega
  rw [State.fetchInstr, (decodeOp_begins ..).encode_eq_take, List.head?_take, if_neg hpos]
  rfl

/-- Of an opcode that is a whole instruction, the two bytes after it play no part. -/
theorem decodeOp_of_decodes {op : Byte} {i : Instr} (h : Decodes [op] i) (n1 n2 : Byte) : decodeOp op n1 n2 = i :=
  congrArg Prod.fst (Except.ok.inj ((decode_three_bytes op n1 n2).symm.trans (h [n1, n2])))

/-- Each undefined opcode decodes to its row (R67). -/
theorem decodes_undefined {row : Instr × Byte} (hrow : row ∈ undefinedRows) : Decodes [row.2] row.1 := by
  obtain ⟨hwf, henc⟩ := encode_undefined row hrow
  rw [← henc]
  exact encodeThenDecode row.1 hwf

/-- An opcode that faults is the one byte its step fetches: it has length 1, or is a STOP that faults (R197). -/
theorem State.afterFetch_of_opcodeFaults {s : State} (h : opcodeFaults s.params (s.read s.pc)) : s.afterFetch = s.afterRead s.pc := by
  have hlen : s.fetchLength = 1 := by
    rw [State.fetchLength]
    obtain hundef | ⟨hop, -⟩ | hstop := h
    · obtain ⟨row, hrow, hop⟩ := List.mem_map.mp hundef
      rw [← hop, lengthOf_of_decodes (decodes_undefined hrow)]
      exact ite_self 1
    · rw [hop]; exact ite_self 1
    · exact if_pos hstop
  rw [State.afterFetch, hlen]
  rfl

/-- In RUNNING, an opcode that faults takes the fatal fault after the one read of its byte (R230). -/
theorem step_of_opcodeFaults {s : State} (hrun : s.run = .running) (h : opcodeFaults s.params (s.read s.pc)) :
    step s = .next ((s.afterRead s.pc).raiseUnimplemented (s.read s.pc)) := by
  rw [step_of_running hrun, State.afterFetch_of_opcodeFaults h, State.fetchInstr]
  obtain hundef | ⟨hop, hparam⟩ | ⟨hop, hparam⟩ := h
  · obtain ⟨row, hrow, hop⟩ := List.mem_map.mp hundef
    rw [← hop, decodeOp_of_decodes (decodes_undefined hrow)]
    exact exec_undefined _ row hrow
  · rw [hop]; exact exec_halt_of_faults hparam
  · rw [hop]; exact exec_stop_of_faults _ hparam

/-- Where a RUNNING step ends FAULTED, the byte at PC is an opcode that faults: of what a meaning can do to the run state (`exec_run`),
only the fatal fault leads there, and the encoding of the instruction that raises it begins with the byte at PC. -/
theorem opcodeFaults_of_faulted {s t : State} (hrun : s.run = .running) (hstep : step s = .next t) (ht : t.run = .faulted) :
    opcodeFaults s.params (s.read s.pc) := by
  have hhead := head?_encode_fetchInstr s
  rw [step_of_running hrun] at hstep
  obtain ⟨hcalm, -⟩ | ⟨-, hhalt, -⟩ | ⟨-, hstop, -⟩ | ⟨op, hrow, -⟩ | ⟨hi, hparam, -⟩ | ⟨⟨x, hi⟩, hparam, -⟩ := exec_run _ _ t hstep
  · have hkept : t.run = .running := hcalm.trans hrun
    rw [hkept] at ht; cases ht
  · rw [hhalt] at ht; cases ht
  · rw [hstop] at ht; cases ht
  · rw [(encode_undefined _ hrow).2] at hhead
    exact .inl (Option.some.inj hhead ▸ List.mem_map_of_mem hrow)
  · rw [hi] at hhead
    exact .inr (.inl ⟨(Option.some.inj hhead).symm, hparam⟩)
  · rw [hi] at hhead
    exact .inr (.inr ⟨(Option.some.inj hhead).symm, hparam⟩)

/-- Settles O46: an opcode that faults takes the fatal fault (`step_of_opcodeFaults`), and no other step ends FAULTED
(`opcodeFaults_of_faulted`). -/
theorem faultedExactlyByFaultingOpcodes : Obligations.FaultedExactlyByFaultingOpcodes := by
  intro s t hrun hstep
  have hraise (h : opcodeFaults s.params (s.read s.pc)) : t = (s.afterRead s.pc).raiseUnimplemented (s.read s.pc) :=
    Host.Outcome.next.inj (hstep.symm.trans (step_of_opcodeFaults hrun h))
  refine ⟨⟨opcodeFaults_of_faulted hrun hstep, fun h => hraise h ▸ rfl⟩, fun ht => ?_⟩
  have hframe := ((s.afterRead s.pc).raiseUnimplemented_spec (s.read s.pc)).2
  rw [hraise (opcodeFaults_of_faulted hrun hstep ht)]
  exact ⟨rfl, rfl, hframe⟩

end Sys2Proof.Machine
end

section
/-! PROOFS. The statements of spec/70_reset_and_hazards.md: the construction from a boot image, and the first step after it. -/

namespace Sys2Proof.Machine

open Sys2Proof.Safety

/-! ## Construction -/

/-- The reset state over `RefMap` with a boot image (R250). -/
def State.booted (boot : List Byte) (params : Params) : State := State.resetOn ⟨.refMap, bootCells 0 boot⟩ params

theorem construct_of_length {boot : List Byte} (params : Params) (h : boot.length = 256) :
    State.construct boot params = .next (State.booted boot params) :=
  if_pos h

theorem construct_of_length_ne {boot : List Byte} (params : Params) (h : boot.length ≠ 256) :
    State.construct boot params = .fault (.bootImageSize boot.length) :=
  if_neg h

theorem eq_booted_of_construct {boot : List Byte} {params : Params} {s : State} (h : State.construct boot params = .next s) :
    s = State.booted boot params := by
  by_cases hlen : boot.length = 256
  · rw [construct_of_length params hlen] at h; exact (Host.Outcome.next.inj h).symm
  · rw [construct_of_length_ne params hlen] at h; cases h

/-- Backed storage reads the boot image at its addresses, and zero past its end. -/
theorem State.booted_read_backed (boot : List Byte) (params : Params) {x : Word} (hr : (busRegion .refMap x).backed = true) :
    (State.booted boot params).read x = boot.getD x.toNat 0 := by
  have hcells := cellsGet_bootCells boot 0 x.toNat
  rw [Nat.zero_add] at hcells
  exact (Memory.read_backed hr).trans hcells

/-- Unmapped space reads 0xFF whatever the boot image. -/
theorem State.booted_read_unmapped (boot : List Byte) (params : Params) {x : Word} (hr : busRegion .refMap x = .unmapped) :
    (State.booted boot params).read x = 0xFF#8 :=
  Memory.read_unmapped hr

/-- The reset state is that of an empty boot image: every byte of storage reads zero, with no boot image listed. -/
theorem reset_eq_booted : State.reset = State.booted [] {} := rfl

/-- Settles O57: the boot image is backed; above it, WRAM and HRAM lie past the end of the image, and unmapped space reads 0xFF, as at
reset. -/
theorem constructionFromBootImage : Obligations.ConstructionFromBootImage := by
  refine fun boot params => ⟨fun hlen => ⟨_, construct_of_length params hlen, rfl, rfl, fun x => ?_⟩, construct_of_length_ne params⟩
  split
  case isTrue hlo => exact State.booted_read_backed boot params (by rw [busRegion_refMap_bootImage hlo]; rfl)
  case isFalse hhi =>
    rw [reset_eq_booted]
    cases hs : storesAt .refMap x
    case true =>
      have hr := backed_of_storesAt hs
      have hpast : boot.length ≤ x.toNat := by omega
      rw [State.booted_read_backed _ _ hr, State.booted_read_backed _ _ hr, List.getD_eq_getElem?_getD, List.getElem?_eq_none hpast]
      rfl
    case false =>
      have hr := busRegion_refMap_unmapped hs (Nat.not_le.mp hhi)
      rw [State.booted_read_unmapped _ _ hr, State.booted_read_unmapped _ _ hr]

/-! ## The first step -/

/-- The byte at the reset PC is unmapped, so it is the opcode of RST 0x38 whatever follows it (R251). -/
theorem State.booted_fetchInstr (boot : List Byte) (params : Params) : (State.booted boot params).fetchInstr = .rst 7 := by
  have hop : (State.booted boot params).read 0x0100#16 = 0xFF#8 := State.booted_read_unmapped boot params rfl
  change decodeOp ((State.booted boot params).read 0x0100#16) _ _ = _
  rw [hop]
  rfl

/-- Settles O58: the step is a restart (`restartCallsFixedAddress`) that pushes 0x0101 at 0xFFFE, of which the high byte at 0xFFFF is
lost. -/
theorem firstStepIsRestart : Obligations.FirstStepIsRestart := by
  intro boot params s hs
  rw [eq_booted_of_construct hs]
  have hb := BusKind.ne_supplied_of_named (bus := (State.booted boot params).mem.bus) (.inl rfl)
  have hfetch : (State.booted boot params).afterFetch = State.booted boot params := by
    rw [State.afterFetch, State.afterReads, Memory.afterReads_named _ _ _ hb]
  obtain ⟨-, t, hexec, hpc, hsp, hstore, hkeep⟩ := restartCallsFixedAddress 7 (State.booted boot params)
  refine ⟨t, ?_, hsp, BitVec.eq_of_toNat_eq hpc, fun x => ?_, hkeep⟩
  · rw [step_of_running rfl, State.booted_fetchInstr, hfetch, hexec]
  · have hword : StoresWord (State.booted boot params) t 0xFFFE#16 0x0101#16 := hstore
    have hlo : storesAt (State.booted boot params).mem.bus 0xFFFE#16 = true := rfl
    have hhi : storesAt (State.booted boot params).mem.bus (0xFFFE#16 + 1) = false := rfl
    have hbyte : loByte 0x0101#16 = 0x01#8 := rfl
    rw [StoresWord_reads hword hb]
    simp only [hlo, hhi, hbyte, and_true, Bool.false_eq_true, and_false, if_false]

end Sys2Proof.Machine
end
